-- ==== Sys2Proof/Word.lean ====
section
/-! DEFINITION. The widths of 00_scope.md R7 (`W = XA = 64`) and of the 32-bit command word (30_encoding.md R70). -/

namespace Sys2Proof

/-- One byte: the unit of `BMEM` and of `XMEM` (20_memory.md R50, R59). -/
abbrev Byte := BitVec 8

/-- A `W`-bit register: argument, result, size or address (00_scope.md R7, `W = XA = 64`). -/
abbrev Word := BitVec 64

/-- A command word, and a 32-bit register (30_encoding.md R70; 10_state.md R28 to R30). -/
abbrev CmdWord := BitVec 32

end Sys2Proof
end

