-- ==== Sys2Proof/Config.lean ====
section
/-! DEFINITION. The platform's parameters (00_scope.md R7) and the free values: opaque constants without a body, so that
no proof can learn what they are. Logs 3, 4, 5, 7, 8 and 9. -/

namespace Sys2Proof

/-- A range of XMEM byte addresses, both ends included. -/
structure AddrRange where
  lo : Nat
  hi : Nat
deriving DecidableEq, Repr

/-- The OPEN parameters of 00_scope.md R7 that the platform fixes before the first host access (70_reset R232). -/
structure Platform where
  /-- `BASE`: the host address of the register window (10_state.md R30) -/
  base : Nat
  /-- `MAX_BYTES`: the largest byte count the allocator can grant (20_memory.md R56) -/
  maxBytes : Nat
  /-- `XmemAdmit` as the list of the ranges it admits (20_memory.md R58); every predicate on the 2^64 addresses is one -/
  admitted : List AddrRange
deriving DecidableEq, Repr

namespace Config

/-- `BASE` of the machine at reset: OPEN (00_scope.md R7). -/
opaque base : Nat

/-- `MAX_BYTES - 1` of the machine at reset: OPEN under R7's law `1 <= MAX_BYTES`, `8 * MAX_BYTES <= 2^63 - 8`. -/
opaque maxBytesPred : Fin (2 ^ 60 - 2 + 1)

/-- `XmemAdmit` of the machine at reset: OPEN (00_scope.md R7, 20_memory.md R58). -/
opaque admitted : List AddrRange

/-- The platform of the machine at reset: nothing is known of it but the law of 00_scope.md R7. -/
def platform : Platform := { base := base, maxBytes := maxBytesPred.val + 1, admitted := admitted }

/-- `AllocOK`: the allocator's answer to the request that draw number `d` stands for; under no law (20_memory.md R56). -/
opaque allocOK (d : Nat) : Bool

/-- `Undef`: the byte that draw number `d` gives to storage allocated without zero-fill (20_memory.md R57). -/
opaque undef (d : Nat) : Byte

/-- What a host reads from `RES0` or `RES1` while `BUSY = 1` (10_state.md R32). -/
opaque busyResult (d : Nat) : Word

/-- Which of the values a raced XMEM byte has held the controller reads (20_memory.md R63(a), (b)). -/
opaque raceChoice (d : Nat) : Nat

/-- Whether a host's racing store to a `read` destination byte stands (true) or is lost (20_memory.md R63(b)). -/
opaque raceStands (d : Nat) : Bool

/-- Whether a host load that races with a pending `read` sees the byte as the command leaves it (20_memory.md R63(b)). -/
opaque hostSeesNew (d : Nat) : Bool

/-- Whether a `read` that a reset cut off had already written a destination byte (70_reset_and_hazards.md R230). -/
opaque resetWrote (d : Nat) : Bool

end Config

end Sys2Proof
end

