-- ==== Sys2Proof/Machine/State.lean ====
section
/-! DEFINITION. The machine's state as plain data (10_state.md), the events of its environment, and the state after
reset (10_state.md R35). -/

namespace Sys2Proof.Machine

/-- The error codes of 60_exceptions.md R200; the codes 6 to 15 are reserved and never produced. -/
inductive ErrCode where
  | ok
  | oom
  | precond
  | state
  | illegal
  | xfault
deriving DecidableEq, Repr

/-- The width of one host access to the register window (10_state.md R31). -/
inductive AccessWidth where
  | w8
  | w16
  | w32
  | w64
deriving DecidableEq, Repr

/-- The registers of the window, 10_state.md R30. -/
inductive WindowReg where
  | cmd
  | arg0
  | arg1
  | arg2
  | res0
  | res1
  | status
  | faults
  | size
  | capacity
  | gen
deriving DecidableEq, Repr

/-- One bus access of a host (00_scope.md R6(2)). A register access carries the host address; a 32-bit access uses the
low 32 bits of `value`. -/
inductive HostEvent where
  | regWrite (addr : Nat) (width : AccessWidth) (value : Word)
  | regRead (addr : Nat) (width : AccessWidth)
  | xmemWrite (addr : Word) (value : Byte)
  | xmemRead (addr : Word)
deriving DecidableEq, Repr

/-- Who acts in a step (00_scope.md R6, 70_reset_and_hazards.md R230). DESIGN CHOICE, log 2. -/
inductive Turn where
  | controller
  | host (e : HostEvent)
  | reset
deriving DecidableEq, Repr

/-- XMEM: (address, byte) pairs in one canonical form (`Memory.wf`). -/
abbrev Memory := List Host.Cell

/-- Why the machine would stop. Nobody raises a fault: every error of this hardware is a completion with a code in
`STATUS.ERR` (60_exceptions.md R202, R205), so there is no constructor; that is exact, neither safe nor unsafe. -/
inductive Fault where
deriving DecidableEq, Repr

/-- Why the model would refuse an instruction. -/
inductive Refusal where
  /-- Raised by an arm of `exec` whose instruction has no meaning yet; safe. No arm raises it: all fourteen commands
  have their meaning. -/
  | notModelled (mnemonic : String)
deriving DecidableEq, Repr

/-- Everything the spec gives the machine (10_state.md), the external memory, the platform's parameters, and the
model's own fields for the environment. -/
structure State where
  /-- `BMEM` (R20): the bytes of the buffer, byte 0 first -/
  bmem : List Byte
  /-- `SIZE` (R21) -/
  size : Word
  /-- `CAPACITY` (R22) -/
  capacity : Word
  /-- `PRESENT` (R26), visible as `STATUS` bit 1 -/
  present : Bool
  /-- `GEN` (R27) -/
  gen : Word
  /-- `ARG0` (R32) -/
  arg0 : Word
  /-- `ARG1` (R32) -/
  arg1 : Word
  /-- `ARG2` (R32) -/
  arg2 : Word
  /-- `RES0` (R32) -/
  res0 : Word
  /-- `RES1` (R32) -/
  res1 : Word
  /-- `STATUS.BUSY` (R28): a command is pending -/
  busy : Bool
  /-- `STATUS.ERR` (R28) -/
  err : ErrCode
  /-- `FAULTS` (R29) -/
  faults : CmdWord
  /-- `LCMD` (R33): the latched command word -/
  lcmd : CmdWord
  /-- `LARG0` (R33) -/
  larg0 : Word
  /-- `LARG1` (R33) -/
  larg1 : Word
  /-- `LARG2` (R33) -/
  larg2 : Word
  /-- XMEM (20_memory.md R50(2)): not the controller's own; reset leaves it alone (R35) -/
  xmem : Memory
  /-- the platform's parameters (00_scope.md R7); log 3 -/
  platform : Platform
  /-- the model's own: who acts next, oldest first; log 2 -/
  turns : List Turn
  /-- the model's own: what the last host read returned; log 10 -/
  hostData : Word
  /-- the model's own: allocator answers already decided, oldest first (true = ok); log 4 -/
  allocAnswers : List Bool
  /-- the model's own: bytes a host overwrote since the pending command was accepted, with the older value; log 8 -/
  raced : List Host.Cell
  /-- the model's own: how many free draws have been taken; log 5 -/
  draws : Nat
deriving DecidableEq, Repr

/-- The reset values of 10_state.md R35. The platform is the opaque one (log 3); XMEM lists nothing (log 6); the model's
own fields are empty (logs 2, 4, 5, 8, 10). -/
def State.reset : State :=
  { bmem := []
    size := 0
    capacity := 0
    present := false
    gen := 0
    arg0 := 0
    arg1 := 0
    arg2 := 0
    res0 := 0
    res1 := 0
    busy := false
    err := .ok
    faults := 0
    lcmd := 0
    larg0 := 0
    larg1 := 0
    larg2 := 0
    xmem := []
    platform := Config.platform
    turns := []
    hostData := 0
    allocAnswers := []
    raced := []
    draws := 0 }

end Sys2Proof.Machine
end

