-- ==== Sys2Proof/Machine/Flags.lean ====
section
/-! DEFINITION. `STATUS` and `FAULTS`: 10_state.md R28, R29, R34 and 60_exceptions.md R200. There are no condition
codes. -/

namespace Sys2Proof.Machine

/-- The code of an error in `STATUS.ERR` (60_exceptions.md R200). -/
def ErrCode.code : ErrCode → BitVec 4
  | .ok => 0
  | .oom => 1
  | .precond => 2
  | .state => 3
  | .illegal => 4
  | .xfault => 5

/-- The sticky `FAULTS` bit that a completion with this code sets: bit `k` for the codes 2 to 5, none for `E_OK` and
`E_OOM` (10_state.md R29). -/
def ErrCode.faultBits : ErrCode → CmdWord
  | .ok => 0x00
  | .oom => 0x00
  | .precond => 0x04
  | .state => 0x08
  | .illegal => 0x10
  | .xfault => 0x20

/-- `FAULTS` bit 6, `OVERRUN` (10_state.md R29). -/
def overrunBit : CmdWord := 0x40

/-- The `FAULTS` bits that exist; bits 0, 1 and 7 to 31 always read 0 (10_state.md R29). -/
def faultsMask : CmdWord := 0x7C

/-- `FAULTS` as a host reads it (10_state.md R29). -/
def State.faultsWord (s : State) : CmdWord := s.faults &&& faultsMask

/-- `STATUS` as a host reads it: `BUSY | PRESENT << 1 | ERR << 8`, the reserved bits 0 (10_state.md R28). -/
def State.statusWord (s : State) : CmdWord :=
  (BitVec.ofBool s.busy).setWidth 32 ||| (BitVec.ofBool s.present).setWidth 32 <<< 1
    ||| s.err.code.setWidth 32 <<< 8

end Sys2Proof.Machine
end

