-- ==== Sys2Proof/Machine/Operands.lean ====
section
/-! DEFINITION. Operands and number conversions: 00_scope.md R8 to R10. There is one operand form: a command's `ARGk` is
the full unsigned value of its latched register, `s.largk.toNat` (30_encoding.md R75, 10_state.md R33), and sums and
comparisons of operands are unbounded, in `Nat` (R9). -/

namespace Sys2Proof.Machine

/-- `ceil8(n)`: the byte count that holds `n` bits (00_scope.md R9). -/
def ceil8 (n : Nat) : Nat := (n + 7) / 8

/-- `zext_W` (00_scope.md R9): a result is reduced to `W` bits where a register is written. -/
def zextW (n : Nat) : Word := BitVec.ofNat 64 n

/-- `twos_W` (00_scope.md R9): the two's complement pattern of a signed value. -/
def twosW (v : Int) : Word := BitVec.ofInt 64 v

end Sys2Proof.Machine
end

