-- ==== Sys2Proof/Machine/Ops.lean ====
section
/-! DEFINITION. The named operations every command is made of: bytes of XMEM and bits of BMEM, completion and error
completion, the allocator, XMEM admission and races, the acceptance of a command word, turns. -/

namespace Sys2Proof.Machine

/-! ## XMEM -/

/-- What an XMEM byte reads as that nothing has written. DESIGN CHOICE, log 6. -/
def Memory.unlisted : Byte := 0

/-- `MemRead(a, 1)`, 00_scope.md R10. -/
def Memory.read : Memory → Nat → Byte
  | [], _ => Memory.unlisted
  | c :: rest, a => if c.1 = a then c.2 else Memory.read rest a

/-- `MemWrite(a, 1, v)`, 00_scope.md R10, keeping the canonical form: addresses rise, no entry equals what an unlisted
address reads as. -/
def Memory.write : Memory → Nat → Byte → Memory
  | [], a, v => if v = Memory.unlisted then [] else [(a, v)]
  | c :: rest, a, v =>
    if a < c.1 then (if v = Memory.unlisted then c :: rest else (a, v) :: c :: rest)
    else if a = c.1 then (if v = Memory.unlisted then rest else (a, v) :: rest)
    else c :: Memory.write rest a v

/-- The canonical form of XMEM: addresses strictly rising and below 2^64 (20_memory.md R50), no entry equal to what an
unlisted address reads as. -/
abbrev Memory.wf (m : Memory) : Prop :=
  m.Pairwise (fun c d => c.1 < d.1) ∧ ∀ c ∈ m, c.1 < 2 ^ 64 ∧ c.2 ≠ Memory.unlisted

/-- Store byte `j` of a list at `a + j`, for the `j` from `k` on, but for those that `stays` names: their byte is left
as it is (20_memory.md R59; `stays` is for the races of R63(b) and the cut-off of 70_reset R230). -/
def Memory.storeFrom (stays : Nat → Bool) (a : Nat) : Nat → List Byte → Memory → Memory
  | _, [], m => m
  | k, b :: bs, m => Memory.storeFrom stays a (k + 1) bs (if stays k then m else Memory.write m (a + k) b)

/-- Bit `j` of the XMEM bit sequence at `a` (00_scope.md R8, 20_memory.md R52). -/
def Memory.seqBit (m : Memory) (a j : Nat) : Bool := (Memory.read m (a + j / 8)).getLsbD (j % 8)

/-! ## BMEM -/

/-- `BMEM[k]`, 00_scope.md R10. Beyond the buffer (no command reaches there, log 17) it reads 0. -/
def bufByte (bs : List Byte) (k : Nat) : Byte := bs.getD k 0

/-- `BufBit(i)`: bit `i mod 8` of buffer byte `i / 8`, from the least significant bit (00_scope.md R8, R10). -/
def bufBit (bs : List Byte) (i : Nat) : Bool := (bufByte bs (i / 8)).getLsbD (i % 8)

/-- The byte whose bit `j` is `f j` (LSB-first, 20_memory.md R52). -/
def byteOfBits (f : Nat → Bool) : Byte :=
  BitVec.ofNat 8 ((f 0).toNat + 2 * (f 1).toNat + 4 * (f 2).toNat + 8 * (f 3).toNat + 16 * (f 4).toNat
    + 32 * (f 5).toNat + 64 * (f 6).toNat + 128 * (f 7).toNat)

/-- Apply `f k` to byte `k` of a list, for the bytes from `k` on. -/
def mapBytesFrom (f : Nat → Byte → Byte) : Nat → List Byte → List Byte
  | _, [] => []
  | k, b :: bs => f k b :: mapBytesFrom f (k + 1) bs

/-- The bits `[lo, lo + n)` take the values `v 0`, `v 1`, …; every other bit of the buffer is unchanged. It is the effect
that 42_range_clear.md R140 and 43_bulk_codec.md R160 give their commands. -/
def rewriteBits (bs : List Byte) (lo n : Nat) (v : Nat → Bool) : List Byte :=
  mapBytesFrom (fun k b => byteOfBits fun j =>
    if lo ≤ 8 * k + j ∧ 8 * k + j < lo + n then v (8 * k + j - lo) else b.getLsbD j) 0 bs

/-- The bits `[b, e)` become 0 (42_range_clear.md R140). -/
def clearBits (bs : List Byte) (b e : Nat) : List Byte := rewriteBits bs b (e - b) fun _ => false

/-- Bit `i` becomes `v`: `BMEM[k] <- (BMEM[k] & (~(1 << p) & 0xFF)) | (v << p)` with `k = i >> 3`, `p = i & 7`
(41_single_bit.md R131). -/
def setBufBit (bs : List Byte) (i : Nat) (v : Bool) : List Byte :=
  bs.set (i / 8) ((bufByte bs (i / 8) &&& ~~~((1 : Byte) <<< (i % 8))) ||| (BitVec.ofBool v).setWidth 8 <<< (i % 8))

/-- The buffer of `nb` bytes that keeps the first `ob` old bytes and takes byte draws, from draw `d` on, for the rest:
`BMEM'[k] := (k < ob) ? BMEM[k] : Undef` (40_allocation.md R103). -/
def regrow (bs : List Byte) (ob nb d : Nat) : List Byte :=
  (List.range nb).map fun k => if k < ob then bufByte bs k else Config.undef (d + (k - ob))

/-- The buffer of `nb` new bytes: zeros, or byte draws from draw `d` on (40_allocation.md R101, 20_memory.md R57). -/
def freshBytes (zeroFill : Bool) (nb d : Nat) : List Byte :=
  (List.range nb).map fun k => if zeroFill then 0 else Config.undef (d + k)

/-- Give `BMEM` new contents in the same storage. -/
def State.withBmem (s : State) (bs : List Byte) : State := { s with bmem := bs }

/-- A command that replaces the buffer's storage: it writes `BMEM`, `SIZE`, `CAPACITY` and `PRESENT`, and counts in `GEN`
modulo 2^64 (10_state.md R21, R22, R26, R27). -/
def State.replaceBuffer (s : State) (bs : List Byte) (size capacity : Word) (present : Bool) : State :=
  { s with bmem := bs, size := size, capacity := capacity, present := present, gen := s.gen + 1 }

/-- Count `n` free draws as taken (log 5). -/
def State.takeDraws (s : State) (n : Nat) : State := { s with draws := s.draws + n }

/-! ## How a command ends -/

/-- `complete(r0, r1)`, 60_exceptions.md R201. The pending command is over, so no byte is raced any more (log 8). -/
def State.complete (s : State) (r0 r1 : Word) : State :=
  { s with res0 := r0, res1 := r1, err := .ok, busy := false, raced := [] }

/-- `raise E_X`, the error completion of 60_exceptions.md R202: this hardware's exception. It saves nothing and jumps
nowhere (R205); the sticky `FAULTS` bit of the code is set and nothing else of the machine changes. -/
def State.raise (s : State) (e : ErrCode) : State :=
  { s with res0 := 0, res1 := 0, err := e, busy := false, faults := s.faults ||| e.faultBits, raced := [] }

/-! ## The allocator -/

/-- `Alloc(n) = ok`, 20_memory.md R56: always refused above `MAX_BYTES`; otherwise the next answer the allocator has
decided, or a free draw where it has decided none (log 4). -/
def State.allocGrants (s : State) (n : Nat) : Bool :=
  if s.platform.maxBytes < n then false else s.allocAnswers.headD (Config.allocOK s.draws)

/-- The environment after the request `Alloc(n)`: its answer is used up. Nothing of the machine changes (R56). -/
def State.afterRequest (s : State) (n : Nat) : State :=
  { s with
    allocAnswers := if s.platform.maxBytes < n then s.allocAnswers else s.allocAnswers.tail
    draws := s.draws + 1 }

/-! ## XMEM admission and races -/

/-- `XmemAdmit(a)`, 20_memory.md R58. -/
def State.admits (s : State) (a : Nat) : Bool := s.platform.admitted.any fun r => r.lo ≤ a && a ≤ r.hi

/-- 20_memory.md R58: the controller may not access the `nb` bytes from `a` on: one lies at or above 2^64, or is not
admitted. No byte, no fault. -/
def State.xmemRefuses (s : State) (a nb : Nat) : Bool :=
  0 < nb && (2 ^ 64 ≤ a + nb - 1 || (List.range nb).any fun k => !s.admits (a + k))

/-- The values that byte `a` held before a host overwrote it while the command was pending (20_memory.md R63). -/
def State.olderValues (s : State) (a : Nat) : List Byte := (s.raced.filter fun c => c.1 == a).map (·.2)

/-- `MemRead(a, 1)` by the pending command: the byte's value, or, where a host raced with it, any value it has held
while the command was pending (20_memory.md R63(a)); `d` is the draw. -/
def State.sampleXmem (s : State) (d a : Nat) : Byte :=
  match s.olderValues a with
  | [] => Memory.read s.xmem a
  | older => (Memory.read s.xmem a :: older).getD (Config.raceChoice d % (older.length + 1)) (Memory.read s.xmem a)

/-- The `nb` XMEM bytes from `a` on, each read once (20_memory.md R59). -/
def State.sampleBytes (s : State) (a nb : Nat) : List Byte :=
  (List.range nb).map fun k => s.sampleXmem (s.draws + k) (a + k)

/-! ## Acceptance of a command word, turns -/

/-- The acceptance of a `CMD` write (10_state.md R33): the word and the arguments are latched and `BUSY <- 1`. -/
def State.acceptCommand (s : State) (w : CmdWord) : State :=
  { s with lcmd := w, larg0 := s.arg0, larg1 := s.arg1, larg2 := s.arg2, busy := true, raced := [] }

/-- A `CMD` write while `BUSY = 1` (60_exceptions.md R206): the word is dropped and `FAULTS[6]` is set. -/
def State.overrun (s : State) : State := { s with faults := s.faults ||| overrunBit }

/-- What a host read returns (log 10). -/
def State.answerHost (s : State) (v : Word) : State := { s with hostData := v }

/-- The oldest turn has been taken (log 2). -/
def State.popTurn (s : State) : State := { s with turns := s.turns.tail }

/-- The controller moves next: with no turn listed it does so anyway (log 2). -/
def State.yieldToController (s : State) : State :=
  { s with turns := if s.turns = [] then [] else .controller :: s.turns }

end Sys2Proof.Machine
end

