-- ==== Sys2Proof/Machine/Allocation.lean ====
section
/-! DEFINITION. The commands of the Allocation & Capacity Manager: 40_allocation.md R100 to R106. Each meaning follows
its rule's pseudocode; the checks stand in the order of 60_exceptions.md R207. -/

namespace Sys2Proof.Machine

/-- `create_empty`, 40_allocation.md R100. -/
def execCreateEmpty (s : State) : Host.Outcome State Fault Refusal :=
  .next <|
    if s.present then s.raise .state
    else (s.replaceBuffer [] 0 0 true).complete 0 0

/-- What `create_sized` does once its request is granted: a buffer of `ceil8(numBits)` new bytes (40_allocation.md
R101). -/
def State.sized (s : State) (zeroFill : Bool) : State :=
  ((s.afterRequest (ceil8 s.larg0.toNat)).replaceBuffer (freshBytes zeroFill (ceil8 s.larg0.toNat) (s.draws + 1)) s.larg0
    (zextW (8 * ceil8 s.larg0.toNat)) true).takeDraws (ceil8 s.larg0.toNat)

/-- `create_sized`, 40_allocation.md R101. -/
def execCreateSized (zeroFill : Bool) (s : State) : Host.Outcome State Fault Refusal :=
  .next <|
    if s.present then s.raise .state
    else if s.allocGrants (ceil8 s.larg0.toNat) then (s.sized zeroFill).complete 0 0
    else (s.afterRequest (ceil8 s.larg0.toNat)).raise .oom

/-- `release`, 40_allocation.md R102. -/
def execRelease (s : State) : Host.Outcome State Fault Refusal :=
  .next <|
    if s.present then (s.replaceBuffer [] 0 0 false).complete 0 0
    else s.raise .state

/-- The steps `ob :=` to `GEN <-` of 40_allocation.md R103, which R104 shares. -/
def State.resized (s : State) : State :=
  ((s.afterRequest (ceil8 s.larg0.toNat)).replaceBuffer
    (regrow s.bmem (s.capacity.toNat / 8) (ceil8 s.larg0.toNat) (s.draws + 1)) s.larg0
    (zextW (8 * ceil8 s.larg0.toNat)) s.present).takeDraws (ceil8 s.larg0.toNat)

/-- `resize`, 40_allocation.md R103. -/
def execResize (s : State) : Host.Outcome State Fault Refusal :=
  .next <|
    if s.present then
      if s.allocGrants (ceil8 s.larg0.toNat) then s.resized.complete (twosW ((s.size.toNat : Int) - s.larg0.toNat)) 0
      else (s.afterRequest (ceil8 s.larg0.toNat)).raise .oom
    else s.raise .state

/-- The zero step of 40_allocation.md R104: on growth the exposed bits `[old, m)` become 0. -/
def zeroExposed (bs : List Byte) (old m : Nat) : List Byte := if old < m then clearBits bs old m else bs

/-- `resize_zerofill`, 40_allocation.md R104. -/
def execResizeZerofill (s : State) : Host.Outcome State Fault Refusal :=
  .next <|
    if s.present then
      if s.allocGrants (ceil8 s.larg0.toNat) then
        (s.resized.withBmem (zeroExposed s.resized.bmem s.size.toNat s.larg0.toNat)).complete
          (twosW ((s.size.toNat : Int) - s.larg0.toNat)) 0
      else (s.afterRequest (ceil8 s.larg0.toNat)).raise .oom
    else s.raise .state

/-- `byte_count`, 40_allocation.md R105. -/
def execByteCount (s : State) : Host.Outcome State Fault Refusal :=
  .next <|
    if s.present then s.complete (zextW (s.capacity.toNat / 8)) 0
    else s.raise .state

/-- `byte_addr_of`, 40_allocation.md R106. -/
def execByteAddrOf (s : State) : Host.Outcome State Fault Refusal :=
  .next <|
    if s.present then
      if s.capacity.toNat ≤ s.larg0.toNat then s.raise .precond
      else s.complete (zextW (s.larg0.toNat / 8)) s.gen
    else s.raise .state

end Sys2Proof.Machine
end

