-- ==== Sys2Proof/Machine/Codec.lean ====
section
/-! DEFINITION. The commands of the Bulk Bit Codec: 43_bulk_codec.md R160 and R162. The meanings use the bit-level
effect; the shifter datapaths R161 and R163 stand in Datapath.lean (log 18). -/

namespace Sys2Proof.Machine

/-- The checks of `write` and `read`, in order (43_bulk_codec.md R160, R162): `E_STATE`, `E_PRECOND`, `E_XFAULT`. -/
def State.codecError (s : State) : Option ErrCode :=
  if s.present then
    if s.capacity.toNat < s.larg0.toNat + s.larg2.toNat then some .precond
    else if s.xmemRefuses s.larg1.toNat (ceil8 s.larg2.toNat) then some .xfault
    else none
  else some .state

/-- `BMEM` after `write` has read its source bytes: buffer bit `idx + j` is sequence bit `j` (43_bulk_codec.md R160). -/
def State.writtenBmem (s : State) (source : List Byte) : List Byte :=
  rewriteBits s.bmem s.larg0.toNat s.larg2.toNat fun j => bufBit source j

/-- `write`, 43_bulk_codec.md R160. -/
def execWrite (s : State) : Host.Outcome State Fault Refusal :=
  .next <|
    match s.codecError with
    | some e => s.raise e
    | none =>
      ((s.withBmem (s.writtenBmem (s.sampleBytes s.larg1.toNat (ceil8 s.larg2.toNat)))).takeDraws
        (ceil8 s.larg2.toNat)).complete (zextW s.larg2.toNat) 0

/-- Destination byte `k` of `read` after the OR: its old bits, or buffer bit `idx + j` for each sequence bit `j < n` in it
(43_bulk_codec.md R162). -/
def State.orMerged (s : State) (k : Nat) (old : Byte) : Byte :=
  old ||| byteOfBits fun j => decide (8 * k + j < s.larg2.toNat) && bufBit s.bmem (s.larg0.toNat + (8 * k + j))

/-- The bytes that `read` writes to `dst`, `dst + 1`, … (43_bulk_codec.md R162). -/
def State.readBytes (s : State) : List Byte :=
  mapBytesFrom (fun k old => s.orMerged k old) 0 (s.sampleBytes s.larg1.toNat (ceil8 s.larg2.toNat))

/-- A host raced with destination byte `a` and its store is the one that stands (20_memory.md R63(b)). -/
def State.hostStoreStands (s : State) (d a : Nat) : Bool := !(s.olderValues a).isEmpty && Config.raceStands d

/-- XMEM after `read` (43_bulk_codec.md R162, 20_memory.md R63(b)). -/
def State.readXmem (s : State) : Memory :=
  Memory.storeFrom (fun k => s.hostStoreStands (s.draws + k) (s.larg1.toNat + k)) s.larg1.toNat 0 s.readBytes s.xmem

/-- Give XMEM new contents. -/
def State.withXmem (s : State) (m : Memory) : State := { s with xmem := m }

/-- `read`, 43_bulk_codec.md R162. -/
def execRead (s : State) : Host.Outcome State Fault Refusal :=
  .next <|
    match s.codecError with
    | some e => s.raise e
    | none => ((s.withXmem s.readXmem).takeDraws (ceil8 s.larg2.toNat)).complete (zextW s.larg2.toNat) 0

end Sys2Proof.Machine
end

