-- ==== Sys2Proof/Machine/RangeClear.lean ====
section
/-! DEFINITION. The commands of the Range Clear Engine: 42_range_clear.md R140, R142 and R143. The meanings use the
effect of R140; the engine's datapath R141 stands in Datapath.lean (log 18). -/

namespace Sys2Proof.Machine

/-- `clear_range`, 42_range_clear.md R140. -/
def execClearRange (s : State) : Host.Outcome State Fault Refusal :=
  .next <|
    if s.present then
      if s.larg1.toNat < s.larg0.toNat ∨ s.capacity.toNat < s.larg1.toNat then s.raise .precond
      else (s.withBmem (clearBits s.bmem s.larg0.toNat s.larg1.toNat)).complete (zextW (s.larg1.toNat - s.larg0.toNat)) 0
    else s.raise .state

/-- `clear_n`, 42_range_clear.md R142; the sum is unbounded. -/
def execClearN (s : State) : Host.Outcome State Fault Refusal :=
  .next <|
    if s.present then
      if s.capacity.toNat < s.larg0.toNat + s.larg1.toNat then s.raise .precond
      else (s.withBmem (clearBits s.bmem s.larg0.toNat (s.larg0.toNat + s.larg1.toNat))).complete (zextW s.larg1.toNat) 0
    else s.raise .state

/-- The first `n` bytes of the buffer become 0 (42_range_clear.md R143). -/
def zeroBytes (bs : List Byte) (n : Nat) : List Byte := mapBytesFrom (fun k b => if k < n then 0 else b) 0 bs

/-- `clear_all`, 42_range_clear.md R143. -/
def execClearAll (s : State) : Host.Outcome State Fault Refusal :=
  .next <|
    if s.present then (s.withBmem (zeroBytes s.bmem (s.capacity.toNat / 8))).complete s.size 0
    else s.raise .state

end Sys2Proof.Machine
end

