-- ==== Sys2Proof/Machine/SingleBit.lean ====
section
/-! DEFINITION. The commands of the Single-Bit Accessor: 41_single_bit.md R130 and R131. -/

namespace Sys2Proof.Machine

/-- `get`, 41_single_bit.md R130. -/
def execGet (s : State) : Host.Outcome State Fault Refusal :=
  .next <|
    if s.present then
      if s.size.toNat ≤ s.larg0.toNat then s.raise .precond
      else s.complete (zextW (bufBit s.bmem s.larg0.toNat).toNat) 0
    else s.raise .state

/-- `set`, 41_single_bit.md R131. -/
def execSet (state : Bool) (s : State) : Host.Outcome State Fault Refusal :=
  .next <|
    if s.present then
      if s.size.toNat ≤ s.larg0.toNat then s.raise .precond
      else (s.withBmem (setBufBit s.bmem s.larg0.toNat state)).complete 0 0
    else s.raise .state

end Sys2Proof.Machine
end

