-- ==== Sys2Proof/Syntax.lean ====
section
/-! DEFINITION. The commands (30_encoding.md R71, R73), the fields of a command word (R70) and assembler statements
(R81). -/

namespace Sys2Proof

/-- One constructor per row of the opcode map, 30_encoding.md R73. A command's non-flag operands are not part of its
word: they are the latched argument registers (R70, R71). Only `create_sized` and `set` carry the flag `F` (R72). -/
inductive Instr where
  /-- 40_allocation.md R100 -/
  | createEmpty
  /-- 40_allocation.md R101 -/
  | createSized (zeroFill : Bool)
  /-- 40_allocation.md R102 -/
  | release
  /-- 41_single_bit.md R130 -/
  | get
  /-- 41_single_bit.md R131 -/
  | set (state : Bool)
  /-- 42_range_clear.md R140 -/
  | clearRange
  /-- 42_range_clear.md R142 -/
  | clearN
  /-- 42_range_clear.md R143 -/
  | clearAll
  /-- 40_allocation.md R103 -/
  | resize
  /-- 40_allocation.md R104 -/
  | resizeZerofill
  /-- 43_bulk_codec.md R160 -/
  | write
  /-- 43_bulk_codec.md R162 -/
  | read
  /-- 40_allocation.md R105 -/
  | byteCount
  /-- 40_allocation.md R106 -/
  | byteAddrOf
deriving DecidableEq, Repr

/-- The three fields of format `CMD32` (30_encoding.md R70), before any check. -/
structure CmdFields where
  opc : BitVec 8
  f : Bool
  rsv : BitVec 23
deriving DecidableEq, Repr

/-- An assembler statement (30_encoding.md R81): a command and its operands for `ARG0`, `ARG1`, `ARG2` in order. The
flag operand is in the command itself. -/
structure Stmt where
  instr : Instr
  args : List Word
deriving DecidableEq, Repr

/-- The lower-case mnemonic of 30_encoding.md R73. -/
def Instr.mnemonic : Instr → String
  | .createEmpty => "create_empty"
  | .createSized _ => "create_sized"
  | .release => "release"
  | .get => "get"
  | .set _ => "set"
  | .clearRange => "clear_range"
  | .clearN => "clear_n"
  | .clearAll => "clear_all"
  | .resize => "resize"
  | .resizeZerofill => "resize_zerofill"
  | .write => "write"
  | .read => "read"
  | .byteCount => "byte_count"
  | .byteAddrOf => "byte_addr_of"

/-- How many of `ARG0` to `ARG2` a command reads, from the first on: the operand columns of 30_encoding.md R71. -/
def Instr.arity : Instr → Nat
  | .createEmpty | .release | .clearAll | .byteCount => 0
  | .createSized _ | .get | .set _ | .resize | .resizeZerofill | .byteAddrOf => 1
  | .clearRange | .clearN => 2
  | .write | .read => 3

/-- The flag operand `F` of the commands that have one (30_encoding.md R72). -/
def Instr.flag? : Instr → Option Bool
  | .createSized z => some z
  | .set b => some b
  | .createEmpty | .release | .get | .clearRange | .clearN | .clearAll | .resize | .resizeZerofill | .write | .read
  | .byteCount | .byteAddrOf => none

end Sys2Proof
end

