-- ==== Sys2Proof/Machine/Dispatch.lean ====
section
/-! DEFINITION. One arm per command (30_encoding.md R73). -/

namespace Sys2Proof.Machine

def exec (i : Instr) (s : State) : Host.Outcome State Fault Refusal :=
  match i with
  | .createEmpty => Sys2Proof.Machine.execCreateEmpty s
  | .createSized z => Sys2Proof.Machine.execCreateSized z s
  | .release => Sys2Proof.Machine.execRelease s
  | .get => Sys2Proof.Machine.execGet s
  | .set b => Sys2Proof.Machine.execSet b s
  | .clearRange => Sys2Proof.Machine.execClearRange s
  | .clearN => Sys2Proof.Machine.execClearN s
  | .clearAll => Sys2Proof.Machine.execClearAll s
  | .resize => Sys2Proof.Machine.execResize s
  | .resizeZerofill => Sys2Proof.Machine.execResizeZerofill s
  | .write => Sys2Proof.Machine.execWrite s
  | .read => Sys2Proof.Machine.execRead s
  | .byteCount => Sys2Proof.Machine.execByteCount s
  | .byteAddrOf => Sys2Proof.Machine.execByteAddrOf s

end Sys2Proof.Machine
end

