-- ==== Sys2Proof/Decode.lean ====
section
/-! DEFINITION. The decoder, total on every 32-bit word (30_encoding.md R74), and after it the encoder and the
match/mask table of R73. -/

namespace Sys2Proof

/-- Why a word is no command (30_encoding.md R74). Each of them completes with `E_ILLEGAL` (60_exceptions.md R204). -/
inductive DecodeReject where
  /-- some bit of `RSV[31:9]` is set (R70) -/
  | reservedBits
  /-- `OPC` is 0x00 or 0x10 to 0xFF (R73) -/
  | noSuchOpcode
  /-- `OPC` is 0x0F, kept for the source's copy operation (R80) -/
  | reservedCopy
  /-- `F = 1` on a command without a flag operand (R72) -/
  | flagNotAllowed
deriving DecidableEq, Repr

/-- The fields of format `CMD32`, 30_encoding.md R70. -/
def cmdFields (w : CmdWord) : CmdFields :=
  { opc := w.extractLsb' 0 8, f := w.getLsbD 8, rsv := w.extractLsb' 9 23 }

/-- A command without a flag operand: `F` must be 0 (30_encoding.md R72). -/
def decodePlain (f : Bool) (i : Instr) : Except DecodeReject Instr :=
  if f then .error .flagNotAllowed else .ok i

/-- The opcode map, 30_encoding.md R73. -/
def decodeOpcode (opc : Nat) (f : Bool) : Except DecodeReject Instr :=
  match opc with
  | 0x01 => decodePlain f .createEmpty
  | 0x02 => .ok (.createSized f)
  | 0x03 => decodePlain f .release
  | 0x04 => decodePlain f .get
  | 0x05 => .ok (.set f)
  | 0x06 => decodePlain f .clearRange
  | 0x07 => decodePlain f .clearN
  | 0x08 => decodePlain f .clearAll
  | 0x09 => decodePlain f .resize
  | 0x0A => decodePlain f .resizeZerofill
  | 0x0B => decodePlain f .write
  | 0x0C => decodePlain f .read
  | 0x0D => decodePlain f .byteCount
  | 0x0E => decodePlain f .byteAddrOf
  | 0x0F => .error .reservedCopy
  | _ => .error .noSuchOpcode

/-- 30_encoding.md R74: every word is exactly one command or illegal. -/
def decode (w : CmdWord) : Except DecodeReject Instr :=
  if (cmdFields w).rsv = 0 then decodeOpcode (cmdFields w).opc.toNat (cmdFields w).f else .error .reservedBits

/-- The host's question: the instruction read from a word given as a number of `nbits` bits, the bits above them 0. A
command word is one 32-bit register write (30_encoding.md R76), so there is nothing beyond 32 bits to read. -/
def decodeTableWord (nbits w : Nat) : Option Instr :=
  if nbits ≤ 32 then (decode (BitVec.ofNat 32 (w % 2 ^ nbits))).toOption else none

/-- The `match` column of 30_encoding.md R73. -/
def Instr.matchWord : Instr → CmdWord
  | .createEmpty => 0x00000001
  | .createSized _ => 0x00000002
  | .release => 0x00000003
  | .get => 0x00000004
  | .set _ => 0x00000005
  | .clearRange => 0x00000006
  | .clearN => 0x00000007
  | .clearAll => 0x00000008
  | .resize => 0x00000009
  | .resizeZerofill => 0x0000000A
  | .write => 0x0000000B
  | .read => 0x0000000C
  | .byteCount => 0x0000000D
  | .byteAddrOf => 0x0000000E

/-- The `mask` column of 30_encoding.md R73: bit 8 is free where the command has a flag operand. -/
def Instr.maskWord (i : Instr) : CmdWord := if i.flag?.isSome then 0xFFFFFEFF else 0xFFFFFFFF

/-- The command word a statement writes to `CMD`: `match | (F << 8)` (30_encoding.md R81). -/
def encode (i : Instr) : CmdWord := i.matchWord ||| (if i.flag?.getD false then (1 : CmdWord) <<< 8 else 0)

/-- A row of the opcode map as a full 32-bit pattern (30_encoding.md R73). -/
structure OpcodeRow where
  mnemonic : String
  pattern : CmdWord
  mask : CmdWord
deriving DecidableEq, Repr

/-- 30_encoding.md R74: the row selects `w`. -/
def OpcodeRow.selects (r : OpcodeRow) (w : CmdWord) : Bool := w &&& r.mask == r.pattern

/-- The table of match and mask patterns, 30_encoding.md R73, written out row by row. -/
def opcodeRows : List OpcodeRow :=
  [ ⟨"create_empty", 0x00000001, 0xFFFFFFFF⟩, ⟨"create_sized", 0x00000002, 0xFFFFFEFF⟩,
    ⟨"release", 0x00000003, 0xFFFFFFFF⟩, ⟨"get", 0x00000004, 0xFFFFFFFF⟩, ⟨"set", 0x00000005, 0xFFFFFEFF⟩,
    ⟨"clear_range", 0x00000006, 0xFFFFFFFF⟩, ⟨"clear_n", 0x00000007, 0xFFFFFFFF⟩,
    ⟨"clear_all", 0x00000008, 0xFFFFFFFF⟩, ⟨"resize", 0x00000009, 0xFFFFFFFF⟩,
    ⟨"resize_zerofill", 0x0000000A, 0xFFFFFFFF⟩, ⟨"write", 0x0000000B, 0xFFFFFFFF⟩,
    ⟨"read", 0x0000000C, 0xFFFFFFFF⟩, ⟨"byte_count", 0x0000000D, 0xFFFFFFFF⟩,
    ⟨"byte_addr_of", 0x0000000E, 0xFFFFFFFF⟩ ]

end Sys2Proof
end

