-- ==== Sys2Proof/Machine/HostPort.lean ====
section
/-! DEFINITION. What the hosts and the reset input do to the machine: the register window (10_state.md R30 to R33), host
accesses to XMEM (20_memory.md R62, R63) and reset (70_reset_and_hazards.md R230). -/

namespace Sys2Proof.Machine

/-! ## The register window -/

/-- The register at a window offset, 10_state.md R30; none at 0x58 to 0x7F and between registers. -/
def windowReg (offset : Nat) : Option WindowReg :=
  match offset with
  | 0x00 => some .cmd
  | 0x08 => some .arg0
  | 0x10 => some .arg1
  | 0x18 => some .arg2
  | 0x20 => some .res0
  | 0x28 => some .res1
  | 0x30 => some .status
  | 0x38 => some .faults
  | 0x40 => some .size
  | 0x48 => some .capacity
  | 0x50 => some .gen
  | _ => none

/-- A register's width, 10_state.md R30. -/
def WindowReg.width : WindowReg → AccessWidth
  | .cmd | .status | .faults => .w32
  | .arg0 | .arg1 | .arg2 | .res0 | .res1 | .size | .capacity | .gen => .w64

/-- The host address lies in the window: 0x80 bytes from `BASE` on (10_state.md R30). -/
def State.inWindow (s : State) (addr : Nat) : Bool := s.platform.base ≤ addr && addr < s.platform.base + 0x80

/-- The register a well-formed access names: its offset is a register's and its width is that register's
(10_state.md R31). -/
def State.accessedReg (s : State) (addr : Nat) (width : AccessWidth) : Option WindowReg :=
  if s.inWindow addr then (windowReg (addr - s.platform.base)).filter fun r => r.width = width else none

/-- A host write to a register, 10_state.md R30 to R33: `ARG0..2` take the value, `CMD` issues a command or is an
overrun (60_exceptions.md R206), and the read-only registers ignore it. -/
def State.writeReg (s : State) (r : WindowReg) (v : Word) : State :=
  match r with
  | .cmd => if s.busy then s.overrun else s.acceptCommand (v.setWidth 32)
  | .arg0 => { s with arg0 := v }
  | .arg1 => { s with arg1 := v }
  | .arg2 => { s with arg2 := v }
  | .res0 => s
  | .res1 => s
  | .status => s
  | .faults => s
  | .size => s
  | .capacity => s
  | .gen => s

/-- A result register as a host reads it: while `BUSY = 1` a draw (10_state.md R32). -/
def State.resultSeen (s : State) (r : Word) : Word := if s.busy then Config.busyResult s.draws else r

/-- The value a host reads from a register, 10_state.md R30: `CMD` reads 0. -/
def State.regValue (s : State) (r : WindowReg) : Word :=
  match r with
  | .cmd => 0
  | .arg0 => s.arg0
  | .arg1 => s.arg1
  | .arg2 => s.arg2
  | .res0 => s.resultSeen s.res0
  | .res1 => s.resultSeen s.res1
  | .status => s.statusWord.setWidth 64
  | .faults => s.faultsWord.setWidth 64
  | .size => s.size
  | .capacity => s.capacity
  | .gen => s.gen

/-- A host write at a host address: an access that is not well formed, or outside the window, has no effect
(10_state.md R31). -/
def State.hostRegWrite (s : State) (addr : Nat) (width : AccessWidth) (v : Word) : State :=
  match s.accessedReg addr width with
  | some r => s.writeReg r v
  | none => s

/-- A host read at a host address: an access to the window that is not well formed returns 0 (10_state.md R31). Outside
the window nothing answers here, and the model gives 0 as well (log 11). Reads change nothing of the machine; the draw
counter goes on (log 7). -/
def State.hostRegRead (s : State) (addr : Nat) (width : AccessWidth) : State :=
  match s.accessedReg addr width with
  | some r => (s.answerHost (s.regValue r)).takeDraws 1
  | none => s.answerHost 0

/-! ## XMEM as the hosts see it -/

/-- A `read` command is pending that will complete without an error. -/
def State.readPending (s : State) : Bool :=
  s.busy && decide ((decode s.lcmd).toOption = some .read) && decide (s.codecError = none)

/-- The value the pending `read` would leave in XMEM byte `a`, where `a` is in its destination. -/
def State.pendingReadByte (s : State) (a : Nat) : Option Byte :=
  if s.readPending && decide (s.larg1.toNat ≤ a) && decide (a < s.larg1.toNat + ceil8 s.larg2.toNat) then
    some (s.orMerged (a - s.larg1.toNat) (s.sampleXmem s.draws a))
  else none

/-- A host load of an XMEM byte: the byte, or, in the destination of a pending `read`, its value from before or after
the command's write (20_memory.md R62, R63(b)). -/
def State.hostXmemRead (s : State) (a : Word) : State :=
  match s.pendingReadByte a.toNat with
  | some v =>
    (s.answerHost ((if Config.hostSeesNew s.draws then v else Memory.read s.xmem a.toNat).setWidth 64)).takeDraws 1
  | none => s.answerHost ((Memory.read s.xmem a.toNat).setWidth 64)

/-- A host store to an XMEM byte. While a command is pending the older value is kept, for the races of
20_memory.md R63. -/
def State.hostXmemWrite (s : State) (a : Word) (v : Byte) : State :=
  { s with
    xmem := Memory.write s.xmem a.toNat v
    raced := if s.busy then (a.toNat, Memory.read s.xmem a.toNat) :: s.raced else s.raced }

/-- One host event (00_scope.md R6(2)). -/
def State.hostEvent (s : State) (e : HostEvent) : State :=
  match e with
  | .regWrite addr width v => s.hostRegWrite addr width v
  | .regRead addr width => s.hostRegRead addr width
  | .xmemWrite a v => s.hostXmemWrite a v
  | .xmemRead a => s.hostXmemRead a

/-! ## Reset -/

/-- XMEM after a reset: unchanged, but a pending `read` may have written any subset of its destination bytes, each with
its OR-merged value (70_reset_and_hazards.md R230). -/
def State.resetXmem (s : State) : Memory :=
  if s.readPending then
    Memory.storeFrom (fun k => !Config.resetWrote (s.draws + k)) s.larg1.toNat 0 s.readBytes s.xmem
  else s.xmem

/-- Reset, 70_reset_and_hazards.md R230 with the values of 10_state.md R35. XMEM, the platform and the environment's own
fields are not the controller's and stay. -/
def State.platformReset (s : State) : State :=
  { State.reset with
    xmem := s.resetXmem
    platform := s.platform
    turns := s.turns
    hostData := s.hostData
    allocAnswers := s.allocAnswers
    draws := s.draws + ceil8 s.larg2.toNat }

end Sys2Proof.Machine
end

