-- ==== Sys2Proof/Machine/Step.lean ====
section
/-! DEFINITION. One step: the agent whose turn it is acts (00_scope.md R6, 20_memory.md R62; log 2). -/

namespace Sys2Proof.Machine

/-- The controller's turn: it executes its pending command as one atomic step (00_scope.md R6(1)); an illegal word
completes with `E_ILLEGAL` (30_encoding.md R74, 60_exceptions.md R204); without a pending command it is idle and keeps
its state (60_exceptions.md R217). -/
def controllerTurn (s : State) : Host.Outcome State Fault Refusal :=
  if s.busy then
    match decode s.lcmd with
    | .ok i => exec i s
    | .error _ => .next (s.raise .illegal)
  else .next s

/-- One step of the machine and its environment. -/
def step (s : State) : Host.Outcome State Fault Refusal :=
  match s.turns with
  | [] => controllerTurn s
  | .controller :: _ => controllerTurn s.popTurn
  | .host e :: _ => .next (s.popTurn.hostEvent e)
  | .reset :: _ => .next s.popTurn.platformReset

/-- The state in which the very next step runs the command word `w`: the word has just been accepted (10_state.md R33)
and the controller moves next (logs 1, 2). A command word is 32 bits, so `nbits` is always 32 in the table. -/
def State.withFetchWord (s : State) (nbits w : Nat) : State :=
  (s.acceptCommand (BitVec.ofNat 32 (w % 2 ^ nbits))).yieldToController

end Sys2Proof.Machine
end

