-- ==== Sys2Proof/Machine/Assembler.lean ====
section
/-! DEFINITION. What an assembler statement stands for: 30_encoding.md R81. -/

namespace Sys2Proof.Machine

/-- `write each operand listed to its ARG register`: host writes at the offsets 0x08, 0x10 and 0x18 (10_state.md R30). -/
def argWrites (base : Nat) : List Nat → List Word → List Turn
  | o :: os, v :: vs => .host (.regWrite (base + o) .w64 v) :: argWrites base os vs
  | _, _ => []

/-- The host action of a statement, 30_encoding.md R81: the argument writes, the write of the command word to `CMD`, and
the wait for `STATUS.BUSY = 0`, which is the controller's turn. -/
def hostActions (base : Nat) (t : Stmt) : List Turn :=
  argWrites base [0x08, 0x10, 0x18] t.args
    ++ [.host (.regWrite base .w32 ((encode t.instr).setWidth 64)), .controller]

/-- Separate the operands of a statement by commas (30_encoding.md R81). -/
def joinOperands : List String → String
  | [] => ""
  | [x] => x
  | x :: y :: rest => x ++ ", " ++ joinOperands (y :: rest)

/-- A statement as a line of assembly, numbers in decimal: mnemonic, `ARG0` to `ARG2`, then `F` (30_encoding.md R81). -/
def stmtText (t : Stmt) : String :=
  let operands := t.args.map (fun v => toString v.toNat) ++ (t.instr.flag?.map fun b => if b then "1" else "0").toList
  if operands.isEmpty then t.instr.mnemonic else t.instr.mnemonic ++ " " ++ joinOperands operands

end Sys2Proof.Machine
end

