-- ==== Sys2Proof/Machine/Datapath.lean ====
section
/-! DEFINITION. The byte-level datapaths, 42_range_clear.md R141 and 43_bulk_codec.md R161 and R163, and the bit-level
loops of the commands' pseudocode (R140, R160, R162), each as the spec writes it. The meanings use the effects these
have; that they are equal is stated in the obligations. -/

namespace Sys2Proof.Machine

/-- `BMEM[k] <- f BMEM[k]`. -/
def editByte (bs : List Byte) (k : Nat) (f : Byte → Byte) : List Byte := bs.set k (f (bufByte bs k))

/-- `(1 << n) - 1` in 8 bits: the bits `[0, n)`. -/
def lowMask (n : Nat) : Byte := BitVec.ofNat 8 (2 ^ n - 1)

/-- `for k in first .. first + n - 1: BMEM[k] <- 0x00`, the bulk zero of 42_range_clear.md R141. -/
def bulkZero (bs : List Byte) (first : Nat) : Nat → List Byte
  | 0 => bs
  | n + 1 => bulkZero (editByte bs first fun _ => 0) (first + 1) n

/-- The range-clear datapath, 42_range_clear.md R141. -/
def rangeClearDatapath (bs : List Byte) (b e : Nat) : List Byte :=
  let bb := b / 8
  let eb := e / 8
  let lo := b % 8
  let hi := e % 8
  if bb = eb then
    let m := lowMask hi &&& ~~~(lowMask lo)
    if m = 0 then bs else editByte bs bb fun x => x &&& ~~~m
  else
    let head := if lo = 0 then bs else editByte bs bb fun x => x &&& lowMask lo
    let first := if lo = 0 then bb else bb + 1
    let body := bulkZero head first (eb - first)
    if hi = 0 then body else editByte body eb fun x => x &&& ~~~(lowMask hi)

/-- The whole-byte strides of the write shifter, 43_bulk_codec.md R161: one step for each source byte `v` with 8 bits
left; `s` is the shift, `k` the buffer byte the stride begins in. -/
def writeStride (bs : List Byte) (s k : Nat) (v : Byte) : List Byte :=
  let lower := editByte bs k fun x => (x &&& lowMask s) ||| (v <<< s)
  if s = 0 then lower else editByte lower (k + 1) fun x => (x &&& ((0xFF : Byte) <<< s)) ||| (v >>> (8 - s))

/-- The final partial stride of the write shifter, 43_bulk_codec.md R161, with `0 < r < 8` bits left; the window `m` and
the shifted source `w` are up to 15 bits wide. -/
def writeTail (bs : List Byte) (s k r : Nat) (v : Byte) : List Byte :=
  let m : BitVec 16 := BitVec.ofNat 16 ((2 ^ r - 1) <<< s)
  let w : BitVec 16 := (v &&& lowMask r).setWidth 16 <<< s
  let lower := editByte bs k fun x => (x &&& ~~~(m.setWidth 8)) ||| w.setWidth 8
  if m >>> 8 = 0 then lower
  else editByte lower (k + 1) fun x => (x &&& ~~~((m >>> 8).setWidth 8)) ||| (w >>> 8).setWidth 8

/-- The write shifter, 43_bulk_codec.md R161: it takes the source bytes in turn while `r` bits remain. -/
def writeShifter (s : Nat) : List Byte → Nat → Nat → List Byte → List Byte
  | [], _, _, bs => bs
  | v :: vs, k, r, bs =>
    if 8 ≤ r then writeShifter s vs (k + 1) (r - 8) (writeStride bs s k v)
    else if 0 < r then writeTail bs s k r v
    else bs

/-- The write datapath from bit `index` on, with the source bytes already read (43_bulk_codec.md R161). -/
def writeDatapath (bs : List Byte) (index n : Nat) (source : List Byte) : List Byte :=
  writeShifter (index % 8) source (index / 8) n bs

/-- The read shifter, 43_bulk_codec.md R163: it ORs the buffer's bits into the destination bytes in turn while `r` bits
remain; `k` is the buffer byte the stride begins in. -/
def readShifter (bs : List Byte) (s : Nat) : List Byte → Nat → Nat → List Byte
  | [], _, _ => []
  | d :: ds, k, r =>
    if 8 ≤ r then
      let v := bufByte bs k >>> s ||| (if s = 0 then 0 else bufByte bs (k + 1) <<< (8 - s))
      (d ||| v) :: readShifter bs s ds (k + 1) (r - 8)
    else if 0 < r then
      let w := bufByte bs k >>> s ||| (if 8 < s + r then bufByte bs (k + 1) <<< (8 - s) else 0)
      (d ||| (w &&& lowMask r)) :: ds
    else d :: ds

/-- The read datapath from bit `index` on, with the destination bytes already read (43_bulk_codec.md R163). -/
def readDatapath (bs : List Byte) (index n : Nat) (dest : List Byte) : List Byte :=
  readShifter bs (index % 8) dest (index / 8) n

/-- `for i in b .. b + n - 1: BMEM[i >> 3] <- BMEM[i >> 3] & (~(1 << (i & 7)) & 0xFF)`: the loop of 42_range_clear.md
R140 and R142 and of 40_allocation.md R104. -/
def clearLoop (bs : List Byte) (b : Nat) : Nat → List Byte
  | 0 => bs
  | n + 1 => clearLoop (editByte bs (b / 8) fun x => x &&& ~~~((1 : Byte) <<< (b % 8))) (b + 1) n

/-- The loop of 43_bulk_codec.md R160, from sequence bit `j` on, `n` bits still to go. -/
def writeLoop (source : List Byte) (index : Nat) (bs : List Byte) (j : Nat) : Nat → List Byte
  | 0 => bs
  | n + 1 =>
    let v := (bufByte source (j / 8) >>> (j % 8)) &&& 1
    let i := index + j
    writeLoop source index
      (editByte bs (i / 8) fun x => (x &&& ~~~((1 : Byte) <<< (i % 8))) ||| (v <<< (i % 8))) (j + 1) n

/-- The loop of 43_bulk_codec.md R162, from sequence bit `j` on, `n` bits still to go. -/
def readLoop (bs : List Byte) (index : Nat) (dest : List Byte) (j : Nat) : Nat → List Byte
  | 0 => dest
  | n + 1 =>
    let i := index + j
    readLoop bs index
      (editByte dest (j / 8) fun x => x ||| (((bufByte bs (i / 8) >>> (i % 8)) &&& 1) <<< (j % 8))) (j + 1) n

end Sys2Proof.Machine
end

