-- ==== Sys2Proof/WellFormed.lean ====
section
/-! DEFINITION. What is well formed: the fields of a command word (30_encoding.md R70, R72, R74), an assembler
statement (R81) and a platform (00_scope.md R7). Every term of `Instr` is well formed: its constructors carry a flag
only where R72 allows one. -/

namespace Sys2Proof

/-- 30_encoding.md R73: the opcodes that name a command. -/
def CmdFields.opcodeLegal (c : CmdFields) : Bool := 0x01 ≤ c.opc.toNat && c.opc.toNat ≤ 0x0E

/-- 30_encoding.md R72: `F = 1` only with the opcodes 0x02 and 0x05. -/
def CmdFields.flagLegal (c : CmdFields) : Bool := !c.f || c.opc.toNat == 0x02 || c.opc.toNat == 0x05

/-- 30_encoding.md R70: the reserved field is 0. -/
def CmdFields.reservedZero (c : CmdFields) : Bool := c.rsv == 0

/-- The words that are a command (30_encoding.md R74), said on their fields. -/
def CmdFields.wellFormed (c : CmdFields) : Bool := c.opcodeLegal && c.flagLegal && c.reservedZero

/-- 30_encoding.md R81: a statement lists exactly the operands its command reads. -/
def Stmt.wellFormed (t : Stmt) : Bool := t.args.length == t.instr.arity

/-- 00_scope.md R7: `1 <= MAX_BYTES` and `8 * MAX_BYTES <= 2^(W-1) - 8`. -/
def Platform.wellFormed (p : Platform) : Bool := 1 ≤ p.maxBytes && 8 * p.maxBytes ≤ 2 ^ 63 - 8

end Sys2Proof
end

