-- ==== Sys2Proof/Safety.lean ====
section
/-! DEFINITION. The words the claims use: the machine's invariant (10_state.md R23), the two ways a command ends
(60_exceptions.md R201, R202) with their frames, and the conditions of the error priority (R207). -/

namespace Sys2Proof.Machine

/-- The invariant. The first six fields after the platform's law are 10_state.md R23; the others say that `FAULTS` holds
no bit that does not exist (R29), that XMEM is in its canonical form, and that a byte is raced only while a command is
pending (log 8). -/
structure State.Inv (s : State) : Prop where
  platformLaw : s.platform.wellFormed = true
  capacityWhole : s.capacity.toNat % 8 = 0
  bmemLength : s.bmem.length = s.capacity.toNat / 8
  sizeLeCapacity : s.size.toNat ≤ s.capacity.toNat
  capacityExact : s.capacity.toNat = 8 * ceil8 s.size.toNat
  absentEmpty : s.present = false → s.size = 0 ∧ s.capacity = 0 ∧ s.bmem = []
  capacityGrantable : s.capacity.toNat ≤ 8 * s.platform.maxBytes
  faultsReserved : s.faults &&& ~~~faultsMask = 0
  xmemCanonical : Memory.wf s.xmem
  racedOnlyPending : s.busy = false → s.raced = []

/-- The buffer and its bookkeeping are the same (10_state.md R20 to R27). -/
structure State.SameStorage (s t : State) : Prop where
  bmem : t.bmem = s.bmem
  size : t.size = s.size
  capacity : t.capacity = s.capacity
  present : t.present = s.present
  gen : t.gen = s.gen

/-- `SIZE`, `CAPACITY`, `PRESENT` and `GEN` are the same (10_state.md R21, R22, R26, R27). -/
structure State.SameBookkeeping (s t : State) : Prop where
  size : t.size = s.size
  capacity : t.capacity = s.capacity
  present : t.present = s.present
  gen : t.gen = s.gen

/-- The argument registers and their latched copies are the same (10_state.md R32, R33). -/
structure State.SameArgs (s t : State) : Prop where
  arg0 : t.arg0 = s.arg0
  arg1 : t.arg1 = s.arg1
  arg2 : t.arg2 = s.arg2
  lcmd : t.lcmd = s.lcmd
  larg0 : t.larg0 = s.larg0
  larg1 : t.larg1 = s.larg1
  larg2 : t.larg2 = s.larg2

/-- Every XMEM byte reads the same. -/
def State.SameXmem (s t : State) : Prop := ∀ a, Memory.read t.xmem a = Memory.read s.xmem a

/-- The platform and what the hosts see or will do are the same. -/
structure State.SameEnvironment (s t : State) : Prop where
  platform : t.platform = s.platform
  turns : t.turns = s.turns
  hostData : t.hostData = s.hostData

/-- The FAULTS bit `k` for an error code `k` of 2 to 5 (60_exceptions.md R202), from the code's number. -/
def stickyBit (k : Nat) : CmdWord := if 2 ≤ k ∧ k ≤ 5 then 1 <<< k else 0

/-- 60_exceptions.md R201: what `complete(r0, r1)` writes, and that no `ARG` register, latch or environment field
changes. -/
structure State.CompletesWith (s t : State) (r0 r1 : Word) : Prop where
  res0 : t.res0 = r0
  res1 : t.res1 = r1
  err : t.err = .ok
  busy : t.busy = false
  faults : t.faults = s.faults
  args : s.SameArgs t
  environment : s.SameEnvironment t

/-- 60_exceptions.md R202: what `raise E_X` writes, and that nothing else of the machine changes. -/
structure State.FailsWith (s t : State) (e : ErrCode) : Prop where
  res0 : t.res0 = 0
  res1 : t.res1 = 0
  err : t.err = e
  busy : t.busy = false
  faults : t.faults = s.faults ||| stickyBit e.code.toNat
  storage : s.SameStorage t
  xmem : s.SameXmem t
  args : s.SameArgs t
  environment : s.SameEnvironment t

/-- The commands that create a buffer (60_exceptions.md R203). -/
def createsBuffer : Instr → Bool
  | .createEmpty | .createSized _ => true
  | .release | .get | .set _ | .clearRange | .clearN | .clearAll | .resize | .resizeZerofill | .write | .read
  | .byteCount | .byteAddrOf => false

/-- The commands that replace the buffer's storage when they succeed (10_state.md R27). -/
def replacesStorage : Instr → Bool
  | .createEmpty | .createSized _ | .release | .resize | .resizeZerofill => true
  | .get | .set _ | .clearRange | .clearN | .clearAll | .write | .read | .byteCount | .byteAddrOf => false

/-- The presence requirement of a command fails (60_exceptions.md R203). -/
def presenceFails (i : Instr) (s : State) : Prop := s.present = createsBuffer i

/-- The operand bounds of a command fail (60_exceptions.md R207: each command checks only its own bounds). The sums are
unbounded (00_scope.md R9). -/
def boundsFail (i : Instr) (s : State) : Prop :=
  match i with
  | .get | .set _ => s.size.toNat ≤ s.larg0.toNat
  | .byteAddrOf => s.capacity.toNat ≤ s.larg0.toNat
  | .clearRange => s.larg1.toNat < s.larg0.toNat ∨ s.capacity.toNat < s.larg1.toNat
  | .clearN => s.capacity.toNat < s.larg0.toNat + s.larg1.toNat
  | .write | .read => s.capacity.toNat < s.larg0.toNat + s.larg2.toNat
  | .createEmpty | .createSized _ | .release | .clearAll | .resize | .resizeZerofill | .byteCount => False

/-- Address `a` may not be accessed: past the top of XMEM, or not admitted (20_memory.md R58). -/
def addressRefused (s : State) (a : Nat) : Prop := 2 ^ 64 ≤ a ∨ ∀ r ∈ s.platform.admitted, ¬(r.lo ≤ a ∧ a ≤ r.hi)

/-- The XMEM admission of a command fails (20_memory.md R58); only `write` and `read` access XMEM. -/
def xmemFails (i : Instr) (s : State) : Prop :=
  match i with
  | .write | .read => ∃ k < ceil8 s.larg2.toNat, addressRefused s (s.larg1.toNat + k)
  | .createEmpty | .createSized _ | .release | .get | .set _ | .clearRange | .clearN | .clearAll | .resize
  | .resizeZerofill | .byteCount | .byteAddrOf => False

/-- The allocator refuses the command's request (20_memory.md R56). -/
def allocFails (i : Instr) (s : State) : Prop :=
  match i with
  | .createSized _ | .resize | .resizeZerofill => s.allocGrants (ceil8 s.larg0.toNat) = false
  | .createEmpty | .release | .get | .set _ | .clearRange | .clearN | .clearAll | .write | .read | .byteCount
  | .byteAddrOf => False

/-- The controller moves next (log 2). -/
def State.ControllerNext (s : State) : Prop := s.turns.head? = none ∨ s.turns.head? = some .controller

/-- A command is pending that is a `read` (20_memory.md R63(b), 70_reset_and_hazards.md R230). -/
def State.PendingRead (s : State) : Prop := s.busy = true ∧ decode s.lcmd = .ok .read

/-- Byte `x` is destination byte `k` of the pending `read` after the OR with old value `old` (43_bulk_codec.md R162):
bit `j` is old bit `j`, or buffer bit `idx + 8k + j` where sequence bit `8k + j` is below `bitCount`. -/
def State.MergedByte (s : State) (k : Nat) (old x : Byte) : Prop :=
  ∀ j < 8, x.getLsbD j =
    (old.getLsbD j || (decide (8 * k + j < s.larg2.toNat) && bufBit s.bmem (s.larg0.toNat + 8 * k + j)))

/-- The value `v` is one that XMEM byte `a` has held while the command was pending (20_memory.md R63(a)). -/
def State.HeldValue (s : State) (a : Nat) (v : Byte) : Prop := v = Memory.read s.xmem a ∨ (a, v) ∈ s.raced

end Sys2Proof.Machine
end

