-- ==== Sys2Proof/Certificates/Slice0/Obligations.lean ====
section
/-! DEFINITION. The statements for the provers, from the numbered rules of spec/. In a statement about a command the
operands are the latched registers `larg0` to `larg2` (10_state.md R33). -/

open Sys2Proof Sys2Proof.Machine

/-! ## Encoding -/

/-- 30_encoding.md R70 to R74: decoder and encoder are inverse to each other on all 2^32 words. -/
def Obligations.DecodesExactlyTheEncodings : Prop :=
  ∀ (w : CmdWord) (i : Instr), decode w = .ok i ↔ w = encode i

/-- 30_encoding.md R73, R74: the decoder answers with the one row of the match/mask table that selects the word, and
rejects exactly the words that R74 lists as illegal. -/
def Obligations.MatchMaskTableDecides : Prop :=
  ∀ w : CmdWord,
    (opcodeRows.filter fun r => r.selects w).length ≤ 1 ∧
    (∀ i, decode w = .ok i → ∃ r ∈ opcodeRows, r.selects w = true ∧ r.mnemonic = i.mnemonic) ∧
    ((∃ e, decode w = .error e) ↔
      (w.toNat % 256 = 0x00 ∨ w.toNat % 256 = 0x0F ∨ 0x10 ≤ w.toNat % 256) ∨ w.toNat / 512 ≠ 0 ∨
      (w.toNat / 256 % 2 = 1 ∧ w.toNat % 256 ≠ 0x02 ∧ w.toNat % 256 ≠ 0x05))

/-- A word is a command exactly where its three fields are well formed (30_encoding.md R70, R72, R73). -/
def Obligations.LegalWordsAreTheWellFormedOnes : Prop :=
  ∀ w : CmdWord, (∃ i, decode w = .ok i) ↔ (cmdFields w).wellFormed = true

/-- Words of the spec's encoding tables, written out (30_encoding.md R73, 95_test_vectors.md 2.5). -/
def Obligations.SpecWordsDecode : Prop :=
  decode 0x00000001 = .ok .createEmpty ∧ decode 0x00000105 = .ok (.set true) ∧ decode 0x00000006 = .ok .clearRange ∧
  decode 0x0000000C = .ok .read ∧ decode 0x0000000F = .error .reservedCopy ∧ decode 0x80000005 = .error .reservedBits ∧
  decode 0x00000109 = .error .flagNotAllowed

/-! ## Steps -/

/-- 20_memory.md R62: on the controller's turn a pending legal command is executed as one step; the turn itself is used
up (log 2). -/
def Obligations.StepRunsTheDecodedCommand : Prop :=
  ∀ (s : State) (i : Instr), s.ControllerNext → s.busy = true → decode s.lcmd = .ok i →
    step s = exec i { s with turns := s.turns.tail }

/-- The model's own interface (log 1): the word placed by `withFetchWord` is run by the very next step. -/
def Obligations.PlacedWordRunsNext : Prop :=
  ∀ (s : State) (w : Nat) (i : Instr), decode (BitVec.ofNat 32 (w % 2 ^ 32)) = .ok i →
    step (s.withFetchWord 32 w) = exec i (s.withFetchWord 32 w).popTurn ∧
    (s.withFetchWord 32 w).popTurn.turns = s.turns ∧ (s.withFetchWord 32 w).larg0 = s.arg0 ∧
    (s.withFetchWord 32 w).larg1 = s.arg1 ∧ (s.withFetchWord 32 w).larg2 = s.arg2 ∧
    s.SameStorage (s.withFetchWord 32 w) ∧ s.SameXmem (s.withFetchWord 32 w)

/-- 60_exceptions.md R204: an illegal word completes with `E_ILLEGAL`, changes nothing else and asks the allocator for
nothing. -/
def Obligations.IllegalWordCompletesWithIllegal : Prop :=
  ∀ s : State, s.ControllerNext → s.busy = true →
    ((s.lcmd.toNat % 256 = 0x00 ∨ s.lcmd.toNat % 256 = 0x0F ∨ 0x10 ≤ s.lcmd.toNat % 256) ∨ s.lcmd.toNat / 512 ≠ 0 ∨
      (s.lcmd.toNat / 256 % 2 = 1 ∧ s.lcmd.toNat % 256 ≠ 0x02 ∧ s.lcmd.toNat % 256 ≠ 0x05)) →
    ∃ t, step s = .next t ∧ s.popTurn.FailsWith t .illegal ∧ t.allocAnswers = s.allocAnswers

/-- 60_exceptions.md R217: without a pending command the controller's turn changes no state. -/
def Obligations.IdleControllerKeepsItsState : Prop :=
  ∀ s : State, s.ControllerNext → s.busy = false → step s = .next s.popTurn

/-- 60_exceptions.md R202, R205: no error stops the machine; every step has a next state. -/
def Obligations.EveryStepHasANextState : Prop :=
  ∀ s : State, ∃ t, step s = .next t

/-! ## The Allocation & Capacity Manager -/

/-- 40_allocation.md R100. -/
def Obligations.CreateEmptyRule : Prop :=
  decode 0x00000001 = .ok .createEmpty ∧
  ∀ s : State,
    (s.present = true → ∃ t, exec .createEmpty s = .next t ∧ s.FailsWith t .state) ∧
    (s.present = false → ∃ t, exec .createEmpty s = .next t ∧ s.CompletesWith t 0 0 ∧
      t.bmem = [] ∧ t.size = 0 ∧ t.capacity = 0 ∧ t.present = true ∧ t.gen.toNat = (s.gen.toNat + 1) % 2 ^ 64 ∧
      s.SameXmem t ∧ t.allocAnswers = s.allocAnswers)

/-- 40_allocation.md R101. Without zero-fill nothing is said of the bytes: they are draws. -/
def Obligations.CreateSizedRule : Prop :=
  decode 0x00000002 = .ok (.createSized false) ∧ decode 0x00000102 = .ok (.createSized true) ∧
  ∀ (z : Bool) (s : State),
    (s.present = true → ∃ t, exec (.createSized z) s = .next t ∧ s.FailsWith t .state ∧
      t.allocAnswers = s.allocAnswers) ∧
    (s.present = false → s.allocGrants ((s.larg0.toNat + 7) / 8) = false →
      ∃ t, exec (.createSized z) s = .next t ∧ s.FailsWith t .oom) ∧
    (s.present = false → s.platform.maxBytes < (s.larg0.toNat + 7) / 8 →
      ∃ t, exec (.createSized z) s = .next t ∧ s.FailsWith t .oom) ∧
    (s.present = false → s.platform.wellFormed = true → s.allocGrants ((s.larg0.toNat + 7) / 8) = true →
      ∃ t, exec (.createSized z) s = .next t ∧ s.CompletesWith t 0 0 ∧
        t.bmem.length = (s.larg0.toNat + 7) / 8 ∧ (z = true → ∀ i, bufBit t.bmem i = false) ∧
        t.capacity.toNat = 8 * ((s.larg0.toNat + 7) / 8) ∧ t.size = s.larg0 ∧ t.present = true ∧
        t.gen.toNat = (s.gen.toNat + 1) % 2 ^ 64 ∧ s.SameXmem t)

/-- 40_allocation.md R102. -/
def Obligations.ReleaseRule : Prop :=
  decode 0x00000003 = .ok .release ∧
  ∀ s : State,
    (s.present = false → ∃ t, exec .release s = .next t ∧ s.FailsWith t .state) ∧
    (s.present = true → ∃ t, exec .release s = .next t ∧ s.CompletesWith t 0 0 ∧
      t.bmem = [] ∧ t.size = 0 ∧ t.capacity = 0 ∧ t.present = false ∧ t.gen.toNat = (s.gen.toNat + 1) % 2 ^ 64 ∧
      s.SameXmem t ∧ t.allocAnswers = s.allocAnswers)

/-- 40_allocation.md R103. Nothing is said of the bytes that growth adds: they are draws. -/
def Obligations.ResizeRule : Prop :=
  decode 0x00000009 = .ok .resize ∧
  ∀ s : State,
    (s.present = false → ∃ t, exec .resize s = .next t ∧ s.FailsWith t .state ∧
      t.allocAnswers = s.allocAnswers) ∧
    (s.present = true → s.allocGrants ((s.larg0.toNat + 7) / 8) = false →
      ∃ t, exec .resize s = .next t ∧ s.FailsWith t .oom) ∧
    (s.present = true → s.Inv → s.allocGrants ((s.larg0.toNat + 7) / 8) = true →
      ∃ t, exec .resize s = .next t ∧
        s.CompletesWith t (BitVec.ofInt 64 ((s.size.toNat : Int) - s.larg0.toNat)) 0 ∧
        t.res0.toInt = (s.size.toNat : Int) - s.larg0.toNat ∧
        t.bmem.length = (s.larg0.toNat + 7) / 8 ∧
        (∀ k < t.bmem.length, k < s.bmem.length → bufByte t.bmem k = bufByte s.bmem k) ∧
        t.capacity.toNat = 8 * ((s.larg0.toNat + 7) / 8) ∧ t.size = s.larg0 ∧ t.present = true ∧
        t.gen.toNat = (s.gen.toNat + 1) % 2 ^ 64 ∧ s.SameXmem t)

/-- 40_allocation.md R104. Nothing is said of the bits at or above the new size in bytes that growth adds. -/
def Obligations.ResizeZerofillRule : Prop :=
  decode 0x0000000A = .ok .resizeZerofill ∧
  ∀ s : State,
    (s.present = false → ∃ t, exec .resizeZerofill s = .next t ∧ s.FailsWith t .state ∧
      t.allocAnswers = s.allocAnswers) ∧
    (s.present = true → s.allocGrants ((s.larg0.toNat + 7) / 8) = false →
      ∃ t, exec .resizeZerofill s = .next t ∧ s.FailsWith t .oom) ∧
    (s.present = true → s.Inv → s.allocGrants ((s.larg0.toNat + 7) / 8) = true →
      ∃ t, exec .resizeZerofill s = .next t ∧
        s.CompletesWith t (BitVec.ofInt 64 ((s.size.toNat : Int) - s.larg0.toNat)) 0 ∧
        t.res0.toInt = (s.size.toNat : Int) - s.larg0.toNat ∧
        t.bmem.length = (s.larg0.toNat + 7) / 8 ∧
        (∀ i, s.size.toNat ≤ i → i < s.larg0.toNat → bufBit t.bmem i = false) ∧
        (∀ i, i < 8 * t.bmem.length → i < 8 * s.bmem.length → ¬(s.size.toNat ≤ i ∧ i < s.larg0.toNat) →
          bufBit t.bmem i = bufBit s.bmem i) ∧
        t.capacity.toNat = 8 * ((s.larg0.toNat + 7) / 8) ∧ t.size = s.larg0 ∧ t.present = true ∧
        t.gen.toNat = (s.gen.toNat + 1) % 2 ^ 64 ∧ s.SameXmem t)

/-- 40_allocation.md R105. -/
def Obligations.ByteCountRule : Prop :=
  decode 0x0000000D = .ok .byteCount ∧
  ∀ s : State,
    (s.present = false → ∃ t, exec .byteCount s = .next t ∧ s.FailsWith t .state) ∧
    (s.present = true → ∃ t, exec .byteCount s = .next t ∧ s.CompletesWith t (BitVec.ofNat 64 (s.capacity.toNat / 8)) 0 ∧
      s.SameStorage t ∧ s.SameXmem t ∧ t.res0.toNat = s.capacity.toNat / 8)

/-- 40_allocation.md R106. -/
def Obligations.ByteAddrOfRule : Prop :=
  decode 0x0000000E = .ok .byteAddrOf ∧
  ∀ s : State,
    (s.present = false → ∃ t, exec .byteAddrOf s = .next t ∧ s.FailsWith t .state) ∧
    (s.present = true → s.capacity.toNat ≤ s.larg0.toNat →
      ∃ t, exec .byteAddrOf s = .next t ∧ s.FailsWith t .precond) ∧
    (s.present = true → s.larg0.toNat < s.capacity.toNat →
      ∃ t, exec .byteAddrOf s = .next t ∧ s.CompletesWith t (s.larg0 >>> 3) s.gen ∧ s.SameStorage t ∧ s.SameXmem t)

/-- 20_memory.md R57, 10_state.md R25: a byte allocated without zero-fill is a draw, one for each byte. In the model
(log 5) it is the opaque `Config.undef` at a number of its own, from the draws that the command takes, so that no two bytes
of any command share one: every byte of `create_sized` with `F = 0`, every byte that `resize` adds, and of every byte that
`resize_zerofill` adds the bits at or above the new size. -/
def Obligations.AddedBytesAreDraws : Prop :=
  (∀ s : State, s.present = false → s.allocGrants ((s.larg0.toNat + 7) / 8) = true →
    ∃ (t : State) (n : Nat → Nat), exec (.createSized false) s = .next t ∧ t.bmem.length = (s.larg0.toNat + 7) / 8 ∧
      (∀ k < t.bmem.length, s.draws ≤ n k ∧ n k < t.draws ∧ bufByte t.bmem k = Config.undef (n k)) ∧
      ∀ k < t.bmem.length, ∀ l < t.bmem.length, n k = n l → k = l) ∧
  (∀ s : State, s.Inv → s.present = true → s.allocGrants ((s.larg0.toNat + 7) / 8) = true →
    ∃ (t : State) (n : Nat → Nat), exec .resize s = .next t ∧ t.bmem.length = (s.larg0.toNat + 7) / 8 ∧
      (∀ k < t.bmem.length, s.bmem.length ≤ k →
        s.draws ≤ n k ∧ n k < t.draws ∧ bufByte t.bmem k = Config.undef (n k)) ∧
      ∀ k < t.bmem.length, ∀ l < t.bmem.length, s.bmem.length ≤ k → s.bmem.length ≤ l → n k = n l → k = l) ∧
  ∀ s : State, s.Inv → s.present = true → s.allocGrants ((s.larg0.toNat + 7) / 8) = true →
    ∃ (t : State) (n : Nat → Nat), exec .resizeZerofill s = .next t ∧ t.bmem.length = (s.larg0.toNat + 7) / 8 ∧
      (∀ k < t.bmem.length, s.bmem.length ≤ k → s.draws ≤ n k ∧ n k < t.draws ∧
        ∀ j < 8, s.larg0.toNat ≤ 8 * k + j → bufBit t.bmem (8 * k + j) = (Config.undef (n k)).getLsbD j) ∧
      ∀ k < t.bmem.length, ∀ l < t.bmem.length, s.bmem.length ≤ k → s.bmem.length ≤ l → n k = n l → k = l

/-! ## The Single-Bit Accessor -/

/-- 41_single_bit.md R130. -/
def Obligations.GetRule : Prop :=
  decode 0x00000004 = .ok .get ∧
  ∀ s : State,
    (s.present = false → ∃ t, exec .get s = .next t ∧ s.FailsWith t .state) ∧
    (s.present = true → s.size.toNat ≤ s.larg0.toNat → ∃ t, exec .get s = .next t ∧ s.FailsWith t .precond) ∧
    (s.present = true → s.larg0.toNat < s.size.toNat →
      ∃ t, exec .get s = .next t ∧
        s.CompletesWith t (BitVec.ofNat 64 ((s.bmem.getD (s.larg0.toNat / 8) 0).toNat / 2 ^ (s.larg0.toNat % 8) % 2)) 0 ∧
        s.SameStorage t ∧ s.SameXmem t)

/-- 41_single_bit.md R131: only bit `index` changes. -/
def Obligations.SetRule : Prop :=
  decode 0x00000005 = .ok (.set false) ∧ decode 0x00000105 = .ok (.set true) ∧
  ∀ (b : Bool) (s : State),
    (s.present = false → ∃ t, exec (.set b) s = .next t ∧ s.FailsWith t .state) ∧
    (s.present = true → s.size.toNat ≤ s.larg0.toNat → ∃ t, exec (.set b) s = .next t ∧ s.FailsWith t .precond) ∧
    (s.present = true → s.Inv → s.larg0.toNat < s.size.toNat →
      ∃ t, exec (.set b) s = .next t ∧ s.CompletesWith t 0 0 ∧ s.SameBookkeeping t ∧ s.SameXmem t ∧
        t.bmem.length = s.bmem.length ∧
        ∀ i, bufBit t.bmem i = if i = s.larg0.toNat then b else bufBit s.bmem i)

/-- 41_single_bit.md R131: two identical `set` commands leave the same state as one, and a bit set to its current value
leaves `BMEM` as it is. -/
def Obligations.SetIsIdempotent : Prop :=
  ∀ (b : Bool) (s t : State), s.Inv → exec (.set b) s = .next t →
    exec (.set b) t = .next t ∧ (bufBit s.bmem s.larg0.toNat = b → t.bmem = s.bmem)

/-! ## The Range Clear Engine -/

/-- 42_range_clear.md R140. -/
def Obligations.ClearRangeRule : Prop :=
  decode 0x00000006 = .ok .clearRange ∧
  ∀ s : State,
    (s.present = false → ∃ t, exec .clearRange s = .next t ∧ s.FailsWith t .state) ∧
    (s.present = true → s.larg1.toNat < s.larg0.toNat ∨ s.capacity.toNat < s.larg1.toNat →
      ∃ t, exec .clearRange s = .next t ∧ s.FailsWith t .precond) ∧
    (s.present = true → s.larg0.toNat ≤ s.larg1.toNat → s.larg1.toNat ≤ s.capacity.toNat →
      ∃ t, exec .clearRange s = .next t ∧ s.CompletesWith t (s.larg1 - s.larg0) 0 ∧ s.SameBookkeeping t ∧ s.SameXmem t ∧
        t.bmem.length = s.bmem.length ∧
        ∀ i, bufBit t.bmem i = if s.larg0.toNat ≤ i ∧ i < s.larg1.toNat then false else bufBit s.bmem i)

/-- 42_range_clear.md R142: the sum is unbounded. -/
def Obligations.ClearNRule : Prop :=
  decode 0x00000007 = .ok .clearN ∧
  ∀ s : State,
    (s.present = false → ∃ t, exec .clearN s = .next t ∧ s.FailsWith t .state) ∧
    (s.present = true → s.capacity.toNat < s.larg0.toNat + s.larg1.toNat →
      ∃ t, exec .clearN s = .next t ∧ s.FailsWith t .precond) ∧
    (s.present = true → s.larg0.toNat + s.larg1.toNat ≤ s.capacity.toNat →
      ∃ t, exec .clearN s = .next t ∧ s.CompletesWith t s.larg1 0 ∧ s.SameBookkeeping t ∧ s.SameXmem t ∧
        t.bmem.length = s.bmem.length ∧
        ∀ i, bufBit t.bmem i =
          if s.larg0.toNat ≤ i ∧ i < s.larg0.toNat + s.larg1.toNat then false else bufBit s.bmem i)

/-- 42_range_clear.md R142: `clear_n index, count` is `clear_range index, index + count`, wherever the sum is at most
`CAPACITY`. -/
def Obligations.ClearNIsClearRange : Prop :=
  ∀ (s t : State) (e : Word), e.toNat = s.larg0.toNat + s.larg1.toNat → e.toNat ≤ s.capacity.toNat →
    exec .clearN s = .next t → exec .clearRange { s with larg1 := e } = .next { t with larg1 := e }

/-- 42_range_clear.md R143: the whole buffer is cleared, also the bits at or above `SIZE`. -/
def Obligations.ClearAllRule : Prop :=
  decode 0x00000008 = .ok .clearAll ∧
  ∀ s : State,
    (s.present = false → ∃ t, exec .clearAll s = .next t ∧ s.FailsWith t .state) ∧
    (s.present = true → s.Inv →
      ∃ t, exec .clearAll s = .next t ∧ s.CompletesWith t s.size 0 ∧ s.SameBookkeeping t ∧ s.SameXmem t ∧
        t.bmem.length = s.bmem.length ∧ ∀ i, bufBit t.bmem i = false)

/-! ## The Bulk Bit Codec -/

/-- 43_bulk_codec.md R160; without a race (20_memory.md R63) on the source: `raced` is log 8's. -/
def Obligations.WriteRule : Prop :=
  decode 0x0000000B = .ok .write ∧
  ∀ s : State,
    (s.present = false → ∃ t, exec .write s = .next t ∧ s.FailsWith t .state) ∧
    (s.present = true → s.capacity.toNat < s.larg0.toNat + s.larg2.toNat →
      ∃ t, exec .write s = .next t ∧ s.FailsWith t .precond) ∧
    (s.present = true → s.larg0.toNat + s.larg2.toNat ≤ s.capacity.toNat →
      (∃ k < (s.larg2.toNat + 7) / 8, addressRefused s (s.larg1.toNat + k)) →
      ∃ t, exec .write s = .next t ∧ s.FailsWith t .xfault) ∧
    (s.present = true → s.Inv → s.larg0.toNat + s.larg2.toNat ≤ s.capacity.toNat →
      (∀ k < (s.larg2.toNat + 7) / 8, ¬addressRefused s (s.larg1.toNat + k)) → s.raced = [] →
      ∃ t, exec .write s = .next t ∧ s.CompletesWith t s.larg2 0 ∧ s.SameBookkeeping t ∧ s.SameXmem t ∧
        t.bmem.length = s.bmem.length ∧
        (∀ j < s.larg2.toNat, bufBit t.bmem (s.larg0.toNat + j) = Memory.seqBit s.xmem s.larg1.toNat j) ∧
        ∀ i, ¬(s.larg0.toNat ≤ i ∧ i < s.larg0.toNat + s.larg2.toNat) → bufBit t.bmem i = bufBit s.bmem i)

/-- 43_bulk_codec.md R162; without a race (20_memory.md R63) on the destination. The bytes stored to are the
`ceil8(bitCount)` bytes from `dst` on. -/
def Obligations.ReadRule : Prop :=
  decode 0x0000000C = .ok .read ∧
  ∀ s : State,
    (s.present = false → ∃ t, exec .read s = .next t ∧ s.FailsWith t .state) ∧
    (s.present = true → s.capacity.toNat < s.larg0.toNat + s.larg2.toNat →
      ∃ t, exec .read s = .next t ∧ s.FailsWith t .precond) ∧
    (s.present = true → s.larg0.toNat + s.larg2.toNat ≤ s.capacity.toNat →
      (∃ k < (s.larg2.toNat + 7) / 8, addressRefused s (s.larg1.toNat + k)) →
      ∃ t, exec .read s = .next t ∧ s.FailsWith t .xfault) ∧
    (s.present = true → s.Inv → s.larg0.toNat + s.larg2.toNat ≤ s.capacity.toNat →
      (∀ k < (s.larg2.toNat + 7) / 8, ¬addressRefused s (s.larg1.toNat + k)) → s.raced = [] →
      ∃ t, exec .read s = .next t ∧ s.CompletesWith t s.larg2 0 ∧ s.SameStorage t ∧
        (∀ j < s.larg2.toNat, Memory.seqBit t.xmem s.larg1.toNat j =
          (Memory.seqBit s.xmem s.larg1.toNat j || bufBit s.bmem (s.larg0.toNat + j))) ∧
        (∀ j, s.larg2.toNat ≤ j → Memory.seqBit t.xmem s.larg1.toNat j = Memory.seqBit s.xmem s.larg1.toNat j) ∧
        ∀ a, ¬(s.larg1.toNat ≤ a ∧ a < s.larg1.toNat + (s.larg2.toNat + 7) / 8) →
          Memory.read t.xmem a = Memory.read s.xmem a)

/-- 43_bulk_codec.md R164: `write` and then `read` into a zeroed destination gives the source's bits, with anything in
between that leaves the buffer's bits of the range as they are. -/
def Obligations.WriteThenReadRoundTrip : Prop :=
  ∀ s t u v : State, s.Inv → s.raced = [] → exec .write s = .next t → t.err = .ok →
    u.Inv → u.raced = [] → u.larg0 = s.larg0 → u.larg2 = s.larg2 →
    (∀ i, s.larg0.toNat ≤ i → i < s.larg0.toNat + s.larg2.toNat → bufBit u.bmem i = bufBit t.bmem i) →
    (∀ j < s.larg2.toNat, Memory.seqBit u.xmem u.larg1.toNat j = false) →
    exec .read u = .next v → v.err = .ok →
    ∀ j < s.larg2.toNat, Memory.seqBit v.xmem u.larg1.toNat j = Memory.seqBit s.xmem s.larg1.toNat j

/-! ## The datapaths and the rules' loops -/

/-- 42_range_clear.md R141 is equal in effect to R140, on every buffer and range inside it. -/
def Obligations.RangeClearDatapathHasTheEffect : Prop :=
  ∀ (bs : List Byte) (b e : Nat), b ≤ e → e ≤ 8 * bs.length → rangeClearDatapath bs b e = clearBits bs b e

/-- 43_bulk_codec.md R161 is equal in effect to R160. -/
def Obligations.WriteDatapathHasTheEffect : Prop :=
  ∀ (bs source : List Byte) (index n : Nat), index + n ≤ 8 * bs.length → source.length = (n + 7) / 8 →
    writeDatapath bs index n source = rewriteBits bs index n fun j => bufBit source j

/-- 43_bulk_codec.md R163 is equal in effect to R162. -/
def Obligations.ReadDatapathHasTheEffect : Prop :=
  ∀ (bs dest : List Byte) (index n : Nat), index + n ≤ 8 * bs.length → dest.length = (n + 7) / 8 →
    (readDatapath bs index n dest).length = dest.length ∧
    ∀ j, bufBit (readDatapath bs index n dest) j =
      (bufBit dest j || (decide (j < n) && bufBit bs (index + j)))

/-- The bit-by-bit loop of 42_range_clear.md R140 and R142 and 40_allocation.md R104 has the effect the meanings use. -/
def Obligations.ClearLoopHasTheEffect : Prop :=
  ∀ (bs : List Byte) (b n : Nat), clearLoop bs b n = clearBits bs b (b + n)

/-- The bit-by-bit loops of 43_bulk_codec.md R160 and R162 have the effects the meanings use. -/
def Obligations.CodecLoopsHaveTheEffects : Prop :=
  (∀ (bs source : List Byte) (index n : Nat),
    writeLoop source index bs 0 n = rewriteBits bs index n fun j => bufBit source j) ∧
  ∀ (bs dest : List Byte) (index n : Nat), n ≤ 8 * dest.length → ∀ j,
    bufBit (readLoop bs index dest 0 n) j = (bufBit dest j || (decide (j < n) && bufBit bs (index + j)))

/-! ## Errors -/

/-- 60_exceptions.md R201, R202: every command either completes, leaving `FAULTS` alone, or fails without any other
effect. -/
def Obligations.ErrorsArePrecise : Prop :=
  ∀ (i : Instr) (s : State), ∃ t, exec i s = .next t ∧ t.busy = false ∧
    (t.err = .ok → t.faults = s.faults) ∧ (t.err ≠ .ok → s.FailsWith t t.err)

/-- 60_exceptions.md R203. -/
def Obligations.StateErrorCauses : Prop :=
  ∀ (i : Instr) (s : State), ∃ t, exec i s = .next t ∧ (t.err = .state ↔ s.present = createsBuffer i)

/-- 60_exceptions.md R207: the first condition that fails is the one reported, and an overrun does not change it. -/
def Obligations.ErrorPriority : Prop :=
  (∀ s : State, s.ControllerNext → s.busy = true → (∃ r, decode s.lcmd = .error r) →
    ∃ t, step s = .next t ∧ t.err = .illegal) ∧
  ∀ (i : Instr) (s : State), ¬(xmemFails i s ∧ allocFails i s) ∧ ∃ t, exec i s = .next t ∧
    (presenceFails i s → t.err = .state) ∧
    (¬presenceFails i s → boundsFail i s → t.err = .precond) ∧
    (¬presenceFails i s → ¬boundsFail i s → xmemFails i s → t.err = .xfault) ∧
    (¬presenceFails i s → ¬boundsFail i s → ¬xmemFails i s → allocFails i s → t.err = .oom) ∧
    (¬presenceFails i s → ¬boundsFail i s → ¬xmemFails i s → ¬allocFails i s → t.err = .ok) ∧
    ∃ u, exec i s.overrun = .next u ∧ u.err = t.err

/-- 20_memory.md R58. -/
def Obligations.XmemAdmissionDecides : Prop :=
  ∀ (i : Instr) (s : State), i = .write ∨ i = .read → s.present = true →
    s.larg0.toNat + s.larg2.toNat ≤ s.capacity.toNat →
    ∃ t, exec i s = .next t ∧
      ((∃ k < (s.larg2.toNat + 7) / 8, 2 ^ 64 ≤ s.larg1.toNat + k ∨
          ∀ r ∈ s.platform.admitted, ¬(r.lo ≤ s.larg1.toNat + k ∧ s.larg1.toNat + k ≤ r.hi)) →
        s.FailsWith t .xfault) ∧
      ((∀ k < (s.larg2.toNat + 7) / 8, s.larg1.toNat + k < 2 ^ 64 ∧
          ∃ r ∈ s.platform.admitted, r.lo ≤ s.larg1.toNat + k ∧ s.larg1.toNat + k ≤ r.hi) → t.err = .ok) ∧
      (s.larg2 = 0 → t.err = .ok)

/-- 20_memory.md R56: above `MAX_BYTES` every request is refused; the answer the allocator has decided is the one
given otherwise; these three commands make one request, and the others none. The queue of answers is the model's own
(log 4). -/
def Obligations.AllocatorRefusesAboveMaxBytes : Prop :=
  (∀ (i : Instr) (s : State), i = .resize ∨ i = .resizeZerofill ∨ (∃ z, i = .createSized z) →
    s.present = !createsBuffer i →
    (s.platform.maxBytes < (s.larg0.toNat + 7) / 8 →
      ∃ t, exec i s = .next t ∧ s.FailsWith t .oom ∧ t.allocAnswers = s.allocAnswers) ∧
    (∀ answer rest, (s.larg0.toNat + 7) / 8 ≤ s.platform.maxBytes → s.allocAnswers = answer :: rest →
      ∃ t, exec i s = .next t ∧ t.allocAnswers = rest ∧ (t.err = .ok ↔ answer = true) ∧
        (answer = false → s.FailsWith t .oom))) ∧
  ∀ (i : Instr) (s : State), i ≠ .resize → i ≠ .resizeZerofill → (∀ z, i ≠ .createSized z) →
    ∃ t, exec i s = .next t ∧ t.allocAnswers = s.allocAnswers

/-! ## Rules about the whole machine -/

/-- 10_state.md R29: reserved bits read 0, a completion sets the bit of its code, and only reset clears a bit. -/
def Obligations.FaultsAreSticky : Prop :=
  (∀ (s : State) (k : Nat), s.faultsWord.getLsbD k = true → 2 ≤ k ∧ k ≤ 6) ∧
  (∀ (s : State) (k : Nat), 2 ≤ k → k ≤ 6 → s.faultsWord.getLsbD k = s.faults.getLsbD k) ∧
  (∀ s t : State, s.ControllerNext → s.busy = true → step s = .next t →
    t.faults = s.faults ||| stickyBit t.err.code.toNat) ∧
  (∀ (s t : State) (v : Word) (rest : List Turn), s.busy = true →
    s.turns = .host (.regWrite s.platform.base .w32 v) :: rest → step s = .next t →
    t.faults = s.faults ||| (1 <<< 6)) ∧
  (∀ s t : State, s.turns.head? ≠ some .reset → step s = .next t →
    ∀ k, s.faults.getLsbD k = true → t.faults.getLsbD k = true) ∧
  (∀ s t : State, s.turns.head? = some .reset → step s = .next t → t.faults = 0)

/-- 10_state.md R28: the layout of `STATUS`; `ERR` and `PRESENT` change only at a completion or at reset; `BUSY` rises
only at an accepted `CMD` write, and falls with the completion or at reset. -/
def Obligations.StatusLayoutAndWriters : Prop :=
  (∀ s : State, s.statusWord.getLsbD 0 = s.busy ∧ s.statusWord.getLsbD 1 = s.present ∧
    s.statusWord.extractLsb' 8 4 = s.err.code ∧ s.statusWord.extractLsb' 2 6 = 0 ∧
    s.statusWord.extractLsb' 12 20 = 0) ∧
  (∀ s t : State, step s = .next t → (t.err ≠ s.err ∨ t.present ≠ s.present) →
    (s.ControllerNext ∧ s.busy = true ∧ t.busy = false) ∨ s.turns.head? = some .reset) ∧
  (∀ s t : State, step s = .next t → s.busy = true → t.busy = false →
    s.ControllerNext ∨ s.turns.head? = some .reset) ∧
  (∀ s t : State, step s = .next t → s.ControllerNext → s.busy = true → t.busy = false) ∧
  (∀ s t : State, step s = .next t → s.busy = false →
    (t.busy = true ↔ ∃ v rest, s.turns = .host (.regWrite s.platform.base .w32 v) :: rest)) ∧
  (∀ s t : State, step s = .next t → s.turns.head? = some .reset → t.err = .ok ∧ t.present = false ∧ t.busy = false)

/-- 10_state.md R27: which commands count in `GEN`. -/
def Obligations.GenCountsReplacements : Prop :=
  (∀ (i : Instr) (s : State), ∃ t, exec i s = .next t ∧
    t.gen.toNat = if replacesStorage i = true ∧ t.err = .ok then (s.gen.toNat + 1) % 2 ^ 64 else s.gen.toNat) ∧
  (∀ s t : State, step s = .next t → ¬(s.ControllerNext ∧ s.busy = true) → s.turns.head? ≠ some .reset →
    t.gen = s.gen) ∧
  (∀ s t : State, exec .byteAddrOf s = .next t → t.err = .ok → t.res1 = s.gen)

/-- 10_state.md R20, R29, R32, 20_memory.md R50: a host event changes no part of the buffer and no result, the argument
registers only by a well-formed write to one of them, and `FAULTS` only by an overrun (60_exceptions.md R206); the record
of raced bytes (log 8) changes only by an XMEM store and is emptied by an accepted `CMD` write. -/
def Obligations.HostEventsOnlyReachTheWindowAndXmem : Prop :=
  ∀ (s : State) (e : HostEvent) (rest : List Turn), s.turns = .host e :: rest →
    ∃ t, step s = .next t ∧ s.SameStorage t ∧ t.res0 = s.res0 ∧ t.res1 = s.res1 ∧ t.err = s.err ∧
      t.platform = s.platform ∧ t.turns = rest ∧
      ((∀ a v, e ≠ .xmemWrite a v) → t.xmem = s.xmem) ∧
      (t.arg0 = s.arg0 ∨ ∃ v, e = .regWrite (s.platform.base + 0x08) .w64 v ∧ t.arg0 = v) ∧
      (t.arg1 = s.arg1 ∨ ∃ v, e = .regWrite (s.platform.base + 0x10) .w64 v ∧ t.arg1 = v) ∧
      (t.arg2 = s.arg2 ∨ ∃ v, e = .regWrite (s.platform.base + 0x18) .w64 v ∧ t.arg2 = v) ∧
      ((t.lcmd = s.lcmd ∧ t.larg0 = s.larg0 ∧ t.larg1 = s.larg1 ∧ t.larg2 = s.larg2 ∧ t.busy = s.busy) ∨
        ∃ v, e = .regWrite s.platform.base .w32 v ∧ s.busy = false) ∧
      (t.faults = s.faults ∨
        ∃ v, e = .regWrite s.platform.base .w32 v ∧ s.busy = true ∧ t.faults = s.faults ||| (1 <<< 6)) ∧
      t.allocAnswers = s.allocAnswers ∧
      (t.raced = s.raced ∨ (∃ a v, e = .xmemWrite a v) ∨
        ∃ v, e = .regWrite s.platform.base .w32 v ∧ s.busy = false ∧ t.raced = [])

/-- 30_encoding.md R71, 10_state.md R33: a command ignores the argument latches outside its row, and reads no argument
register. -/
def Obligations.CommandsIgnoreOtherArguments : Prop :=
  ∀ (i : Instr) (s t : State) (v : Word), exec i s = .next t →
    (i.arity ≤ 2 → exec i { s with larg2 := v } = .next { t with larg2 := v }) ∧
    (i.arity ≤ 1 → exec i { s with larg1 := v } = .next { t with larg1 := v }) ∧
    (i.arity = 0 → exec i { s with larg0 := v } = .next { t with larg0 := v }) ∧
    exec i { s with arg0 := v } = .next { t with arg0 := v } ∧
    exec i { s with arg1 := v } = .next { t with arg1 := v } ∧
    exec i { s with arg2 := v } = .next { t with arg2 := v }

/-- 20_memory.md R50(2), R59: only `read` writes XMEM, and no command but `write` and `read` depends on it. -/
def Obligations.OnlyTheCodecTouchesXmem : Prop :=
  (∀ (i : Instr) (s : State), i ≠ .read → ∃ t, exec i s = .next t ∧ t.xmem = s.xmem) ∧
  (∀ (i : Instr) (s t : State) (m : Memory), i ≠ .read → i ≠ .write → exec i s = .next t →
    exec i { s with xmem := m } = .next { t with xmem := m })

/-- 10_state.md R23: the invariant holds after reset. -/
def Obligations.ResetHasTheInvariant : Prop := State.reset.Inv

/-- 10_state.md R23: every step, of the controller, a host or the reset input, keeps the invariant. -/
def Obligations.StepKeepsTheInvariant : Prop :=
  ∀ s t : State, s.Inv → step s = .next t → t.Inv

/-- The platform is fixed before the first host access (70_reset_and_hazards.md R232): no step changes it (log 3). -/
def Obligations.NoStepChangesThePlatform : Prop :=
  ∀ s t : State, step s = .next t → t.platform = s.platform

/-! ## The register window -/

/-- 10_state.md R33: the acceptance of a command word. No byte has been overwritten yet while it is pending (log 8). -/
def Obligations.AcceptanceLatchesTheCommand : Prop :=
  ∀ (s : State) (v : Word) (rest : List Turn), s.busy = false →
    s.turns = .host (.regWrite s.platform.base .w32 v) :: rest →
    ∃ t, step s = .next t ∧ t.lcmd.toNat = v.toNat % 2 ^ 32 ∧ t.larg0 = s.arg0 ∧ t.larg1 = s.arg1 ∧
      t.larg2 = s.arg2 ∧ t.busy = true ∧ s.SameStorage t ∧ t.arg0 = s.arg0 ∧ t.arg1 = s.arg1 ∧ t.arg2 = s.arg2 ∧
      t.res0 = s.res0 ∧ t.res1 = s.res1 ∧ t.err = s.err ∧ t.faults = s.faults ∧ t.xmem = s.xmem ∧
      t.platform = s.platform ∧ t.turns = rest ∧ t.hostData = s.hostData ∧ t.raced = []

/-- 60_exceptions.md R206: a `CMD` write while `BUSY = 1` is dropped and sets `FAULTS[6]`, and nothing else changes. -/
def Obligations.OverrunIsDropped : Prop :=
  (∀ (s : State) (v : Word) (rest : List Turn), s.busy = true →
    s.turns = .host (.regWrite s.platform.base .w32 v) :: rest →
    step s = .next { s with turns := rest, faults := s.faults ||| (1 <<< 6) }) ∧
  (∀ (s t : State) (v : Word) (rest : List Turn), s.busy = false →
    s.turns = .host (.regWrite s.platform.base .w32 v) :: rest → step s = .next t → t.faults = s.faults)

/-- 10_state.md R31: in the window, an access that is not at a register's offset with that register's width has no
effect and reads 0; a write to a read-only register has no effect; `CMD` reads 0. -/
def Obligations.MalformedAndReadOnlyAccessesDoNothing : Prop :=
  ∀ (s : State) (addr : Nat) (width : AccessWidth) (v : Word) (rest : List Turn),
    s.platform.base ≤ addr → addr < s.platform.base + 0x80 →
    ((∀ o w, (o, w) ∈ [(0x00, AccessWidth.w32), (0x08, .w64), (0x10, .w64), (0x18, .w64), (0x20, .w64), (0x28, .w64),
        (0x30, .w32), (0x38, .w32), (0x40, .w64), (0x48, .w64), (0x50, .w64)] →
        ¬(addr = s.platform.base + o ∧ width = w)) →
      (s.turns = .host (.regWrite addr width v) :: rest → step s = .next s.popTurn) ∧
      (s.turns = .host (.regRead addr width) :: rest → step s = .next { s.popTurn with hostData := 0 })) ∧
    (0x20 ≤ addr - s.platform.base →
      s.turns = .host (.regWrite addr width v) :: rest → step s = .next s.popTurn) ∧
    (addr = s.platform.base → s.turns = .host (.regRead addr width) :: rest →
      ∃ t, step s = .next t ∧ t.hostData = 0)

/-- 10_state.md R30, R32: what a host reads at each offset (`RES0` and `RES1` only while `BUSY = 0`), and that no read
changes a register, the buffer or XMEM. -/
def Obligations.RegisterReadsReturnTheRegisters : Prop :=
  ∀ (s : State) (o : Nat) (w : AccessWidth) (rest : List Turn),
    s.turns = .host (.regRead (s.platform.base + o) w) :: rest →
    ∃ t, step s = .next t ∧ s.SameArgs t ∧ s.SameStorage t ∧ t.xmem = s.xmem ∧ t.busy = s.busy ∧ t.faults = s.faults ∧
      t.res0 = s.res0 ∧ t.res1 = s.res1 ∧ t.err = s.err ∧ t.platform = s.platform ∧ t.turns = rest ∧
      (o = 0x08 ∧ w = .w64 → t.hostData = s.arg0) ∧ (o = 0x10 ∧ w = .w64 → t.hostData = s.arg1) ∧
      (o = 0x18 ∧ w = .w64 → t.hostData = s.arg2) ∧
      (o = 0x20 ∧ w = .w64 ∧ s.busy = false → t.hostData = s.res0) ∧
      (o = 0x28 ∧ w = .w64 ∧ s.busy = false → t.hostData = s.res1) ∧
      (o = 0x30 ∧ w = .w32 → t.hostData.toNat = s.busy.toNat + 2 * s.present.toNat + 256 * s.err.code.toNat) ∧
      (o = 0x38 ∧ w = .w32 → t.hostData.toNat = (s.faults &&& 0x7C).toNat) ∧
      (o = 0x40 ∧ w = .w64 → t.hostData = s.size) ∧ (o = 0x48 ∧ w = .w64 → t.hostData = s.capacity) ∧
      (o = 0x50 ∧ w = .w64 → t.hostData = s.gen)

/-- 10_state.md R30, R32, 70_reset_and_hazards.md R236: a host write to an argument register takes effect at any time,
`BUSY` 0 or 1, and changes nothing else; and it does not reach the pending command: the two commute. -/
def Obligations.LatchedArgumentsShieldTheCommand : Prop :=
  (∀ (s : State) (v : Word) (rest : List Turn),
    (s.turns = .host (.regWrite (s.platform.base + 0x08) .w64 v) :: rest →
      step s = .next { s with turns := rest, arg0 := v }) ∧
    (s.turns = .host (.regWrite (s.platform.base + 0x10) .w64 v) :: rest →
      step s = .next { s with turns := rest, arg1 := v }) ∧
    (s.turns = .host (.regWrite (s.platform.base + 0x18) .w64 v) :: rest →
      step s = .next { s with turns := rest, arg2 := v })) ∧
  ∀ (s t : State) (o : Nat) (v : Word), o = 0x08 ∨ o = 0x10 ∨ o = 0x18 → controllerTurn s = .next t →
    controllerTurn (s.hostRegWrite (s.platform.base + o) .w64 v)
      = .next (t.hostRegWrite (s.platform.base + o) .w64 v)

/-- 30_encoding.md R81: the host actions of a statement run its command with its operands. That R81's wait for
`STATUS.BUSY = 0` is one turn of the controller is the model's choice (log 21, with log 2). -/
def Obligations.AssembledStatementRuns : Prop :=
  ∀ (p : Stmt) (s : State) (rest : List Turn), p.wellFormed = true → s.busy = false →
    s.turns = hostActions s.platform.base p ++ rest →
    ∃ u : State, Sys2Proof.core.run (p.args.length + 2) s = exec p.instr u ∧ u.busy = true ∧ u.turns = rest ∧
      s.SameStorage u ∧ u.xmem = s.xmem ∧ u.faults = s.faults ∧
      ∀ (k : Nat) (v : Word), p.args[k]? = some v → [u.larg0, u.larg1, u.larg2][k]? = some v

/-! ## XMEM and races -/

/-- 20_memory.md R55, R62: a host store, also while a command is pending, leaves its byte in XMEM and every other byte as
before; and with no command pending a host load after it gives the stored byte. While a command is pending the value that
the store overwrites, and nothing else, joins the values the byte has held (R63(a); the record `raced` is log 8's). -/
def Obligations.HostStoreThenLoad : Prop :=
  (∀ (s : State) (a : Word) (v : Byte) (rest : List Turn), s.Inv → s.turns = .host (.xmemWrite a v) :: rest →
    ∃ t, step s = .next t ∧ Memory.read t.xmem a.toNat = v ∧
      (∀ b, b ≠ a.toNat → Memory.read t.xmem b = Memory.read s.xmem b) ∧
      t.raced = if s.busy then (a.toNat, Memory.read s.xmem a.toNat) :: s.raced else s.raced) ∧
  ∀ (s : State) (a : Word) (v : Byte) (rest : List Turn), s.Inv → s.busy = false →
    s.turns = .host (.xmemWrite a v) :: .host (.xmemRead a) :: rest →
    ∃ t u, step s = .next t ∧ step t = .next u ∧ u.hostData.toNat = v.toNat ∧
      ∀ b, b ≠ a.toNat → Memory.read u.xmem b = Memory.read s.xmem b

/-- 20_memory.md R63(a): each source byte that `write` reads is one of the values the byte held while the command was
pending (log 8), and the buffer takes its bits; everything else is as without a race. -/
def Obligations.RacedWriteTakesHeldValues : Prop :=
  ∀ s : State, s.Inv → s.present = true → s.larg0.toNat + s.larg2.toNat ≤ s.capacity.toNat →
    (∀ k < (s.larg2.toNat + 7) / 8, ¬addressRefused s (s.larg1.toNat + k)) →
    ∃ t, exec .write s = .next t ∧ s.CompletesWith t s.larg2 0 ∧ s.SameBookkeeping t ∧ s.SameXmem t ∧
      t.bmem.length = s.bmem.length ∧
      (∀ k < (s.larg2.toNat + 7) / 8, ∃ v, s.HeldValue (s.larg1.toNat + k) v ∧
        ∀ j < 8, 8 * k + j < s.larg2.toNat → bufBit t.bmem (s.larg0.toNat + 8 * k + j) = v.getLsbD j) ∧
      ∀ i, ¬(s.larg0.toNat ≤ i ∧ i < s.larg0.toNat + s.larg2.toNat) → bufBit t.bmem i = bufBit s.bmem i

/-- 20_memory.md R63(b): afterwards a destination byte of `read` holds the command's value, or, where a host raced with
it, the host's (log 8); everything else is as without a race. -/
def Obligations.RacedReadLeavesOneOfTwoValues : Prop :=
  ∀ s : State, s.Inv → s.present = true → s.larg0.toNat + s.larg2.toNat ≤ s.capacity.toNat →
    (∀ k < (s.larg2.toNat + 7) / 8, ¬addressRefused s (s.larg1.toNat + k)) →
    ∃ t, exec .read s = .next t ∧ s.CompletesWith t s.larg2 0 ∧ s.SameStorage t ∧
      (∀ k < (s.larg2.toNat + 7) / 8,
        (∃ v, s.HeldValue (s.larg1.toNat + k) v ∧ s.MergedByte k v (Memory.read t.xmem (s.larg1.toNat + k))) ∨
        ((∃ v, (s.larg1.toNat + k, v) ∈ s.raced) ∧
          Memory.read t.xmem (s.larg1.toNat + k) = Memory.read s.xmem (s.larg1.toNat + k))) ∧
      ∀ a, ¬(s.larg1.toNat ≤ a ∧ a < s.larg1.toNat + (s.larg2.toNat + 7) / 8) →
        Memory.read t.xmem a = Memory.read s.xmem a

/-- 20_memory.md R62, R63(b): a host load returns the byte, or, where a `read` is pending on it, possibly its value
after the command's write; the values that the command may have merged with are those recorded in `raced` (log 8). A
`read` that fails one of its checks writes no byte (60_exceptions.md R202), so the load then gives the byte. -/
def Obligations.HostLoadSeesBeforeOrAfter : Prop :=
  ∀ (s : State) (a : Word) (rest : List Turn), s.turns = .host (.xmemRead a) :: rest →
    ∃ t, step s = .next t ∧ t.xmem = s.xmem ∧
      (t.hostData.toNat = (Memory.read s.xmem a.toNat).toNat ∨
        (s.PendingRead ∧ s.larg1.toNat ≤ a.toNat ∧ a.toNat < s.larg1.toNat + (s.larg2.toNat + 7) / 8 ∧
          ∃ v x : Byte, s.HeldValue a.toNat v ∧ s.MergedByte (a.toNat - s.larg1.toNat) v x ∧ t.hostData.toNat = x.toNat)) ∧
      (presenceFails .read s ∨ boundsFail .read s ∨ xmemFails .read s →
        t.hostData.toNat = (Memory.read s.xmem a.toNat).toNat)

/-! ## Reset -/

/-- 10_state.md R35: the reset values, of the state after power-on and of a reset at any time. XMEM is unchanged, but for
a pending `read` (70_reset_and_hazards.md R230), of which `ResetDuringReadLeavesOldOrMerged` speaks; that a reset is one
step which leaves the environment's fields is the model's choice (log 9). -/
def Obligations.ResetValues : Prop :=
  (State.reset.bmem = [] ∧ State.reset.size = 0 ∧ State.reset.capacity = 0 ∧ State.reset.present = false ∧
    State.reset.gen = 0 ∧ State.reset.arg0 = 0 ∧ State.reset.arg1 = 0 ∧ State.reset.arg2 = 0 ∧ State.reset.res0 = 0 ∧
    State.reset.res1 = 0 ∧ State.reset.statusWord = 0 ∧ State.reset.faultsWord = 0 ∧ State.reset.lcmd = 0 ∧
    State.reset.larg0 = 0 ∧ State.reset.larg1 = 0 ∧ State.reset.larg2 = 0 ∧ State.reset.busy = false) ∧
  ∀ (s : State) (rest : List Turn), s.turns = .reset :: rest →
    ∃ t, step s = .next t ∧ t.bmem = [] ∧ t.size = 0 ∧ t.capacity = 0 ∧ t.present = false ∧ t.gen = 0 ∧ t.arg0 = 0 ∧
      t.arg1 = 0 ∧ t.arg2 = 0 ∧ t.res0 = 0 ∧ t.res1 = 0 ∧ t.statusWord = 0 ∧ t.faultsWord = 0 ∧ t.lcmd = 0 ∧
      t.larg0 = 0 ∧ t.larg1 = 0 ∧ t.larg2 = 0 ∧ t.busy = false ∧ t.platform = s.platform ∧ t.turns = rest ∧
      (¬s.PendingRead → t.xmem = s.xmem)

/-- 70_reset_and_hazards.md R230: a reset during a `read` leaves each destination byte at its old value or at its
OR-merged value, by a free draw (log 9), and every other XMEM byte alone; where hosts raced with the `read` the merged old
value is one of those recorded in `raced` (log 8, 20_memory.md R63). A `read` that fails one of its checks makes no XMEM
access (60_exceptions.md R202), so a reset while it is pending leaves XMEM unchanged. -/
def Obligations.ResetDuringReadLeavesOldOrMerged : Prop :=
  (∀ (s : State) (rest : List Turn), s.Inv → s.PendingRead → s.turns = .reset :: rest →
    ∃ t, step s = .next t ∧
      (∀ k < (s.larg2.toNat + 7) / 8,
        Memory.read t.xmem (s.larg1.toNat + k) = Memory.read s.xmem (s.larg1.toNat + k) ∨
        ∃ v, s.HeldValue (s.larg1.toNat + k) v ∧ s.MergedByte k v (Memory.read t.xmem (s.larg1.toNat + k))) ∧
      ∀ a, ¬(s.larg1.toNat ≤ a ∧ a < s.larg1.toNat + (s.larg2.toNat + 7) / 8) →
        Memory.read t.xmem a = Memory.read s.xmem a) ∧
  ∀ (s : State) (rest : List Turn), s.PendingRead → s.turns = .reset :: rest →
    presenceFails .read s ∨ boundsFail .read s ∨ xmemFails .read s →
    ∃ t, step s = .next t ∧ t.xmem = s.xmem
end

