-- ==== Sys2Proof/Laws/Buffer.lean ====
section
/-! SUPPORT. The laws of BMEM: what each named operation makes of every byte and every bit. -/

namespace Sys2Proof.Machine

theorem byteOfBits_getLsbD (f : Nat → Bool) {j : Nat} (hj : j < 8) : (byteOfBits f).getLsbD j = f j := by
  have key : ∀ b0 b1 b2 b3 b4 b5 b6 b7 : Bool, ∀ j : Fin 8,
      (BitVec.ofNat 8 (b0.toNat + 2 * b1.toNat + 4 * b2.toNat + 8 * b3.toNat + 16 * b4.toNat + 32 * b5.toNat
        + 64 * b6.toNat + 128 * b7.toNat)).getLsbD j = [b0, b1, b2, b3, b4, b5, b6, b7][j] := by decide
  have h := key (f 0) (f 1) (f 2) (f 3) (f 4) (f 5) (f 6) (f 7) ⟨j, hj⟩
  refine h.trans ?_
  match j, hj with
  | 0, _ | 1, _ | 2, _ | 3, _ | 4, _ | 5, _ | 6, _ | 7, _ => rfl

/-- Two bytes are equal when their eight bits are. -/
theorem byte_ext {x y : Byte} (h : ∀ j < 8, x.getLsbD j = y.getLsbD j) : x = y :=
  BitVec.eq_of_getLsbD_eq h

@[simp] theorem mapBytesFrom_length (f : Nat → Byte → Byte) (k : Nat) (bs : List Byte) :
    (mapBytesFrom f k bs).length = bs.length := by
  induction bs generalizing k with
  | nil => rfl
  | cons b bs ih => simp [mapBytesFrom, ih]

theorem mapBytesFrom_getElem? (f : Nat → Byte → Byte) (k : Nat) (bs : List Byte) (n : Nat) :
    (mapBytesFrom f k bs)[n]? = bs[n]?.map (f (k + n)) := by
  induction bs generalizing k n with
  | nil => simp [mapBytesFrom]
  | cons b bs ih =>
    cases n with
    | zero => simp [mapBytesFrom]
    | succ n => simp [mapBytesFrom, ih, show k + 1 + n = k + (n + 1) by omega]

theorem bufByte_mapBytesFrom (f : Nat → Byte → Byte) (bs : List Byte) {n : Nat} (h : n < bs.length) :
    bufByte (mapBytesFrom f 0 bs) n = f n (bufByte bs n) := by
  rw [bufByte, bufByte, List.getD_eq_getElem?_getD, List.getD_eq_getElem?_getD, mapBytesFrom_getElem?]
  simp [h]

theorem bufByte_of_ge {bs : List Byte} {n : Nat} (h : bs.length ≤ n) : bufByte bs n = 0 := by
  simp [bufByte, List.getD_eq_getElem?_getD, h]

theorem bufBit_of_ge {bs : List Byte} {i : Nat} (h : 8 * bs.length ≤ i) : bufBit bs i = false := by
  rw [bufBit, bufByte_of_ge (by omega)]; simp

@[simp] theorem rewriteBits_length (bs : List Byte) (lo n : Nat) (v : Nat → Bool) :
    (rewriteBits bs lo n v).length = bs.length := by
  simp [rewriteBits]

/-- Every bit of the buffer after `rewriteBits`. -/
theorem bufBit_rewriteBits (bs : List Byte) (lo n : Nat) (v : Nat → Bool) (i : Nat) :
    bufBit (rewriteBits bs lo n v) i =
      if i < 8 * bs.length ∧ lo ≤ i ∧ i < lo + n then v (i - lo) else bufBit bs i := by
  by_cases h : i < 8 * bs.length
  · have hb : i / 8 < bs.length := by omega
    have hj : i % 8 < 8 := Nat.mod_lt _ (by decide)
    have hi : 8 * (i / 8) + i % 8 = i := by omega
    rw [bufBit, rewriteBits, bufByte_mapBytesFrom _ _ hb, byteOfBits_getLsbD _ hj, hi]
    simp only [h, true_and]
    rfl
  · rw [if_neg (fun hc => h hc.1), bufBit_of_ge (by simp; omega), bufBit_of_ge (by omega)]

@[simp] theorem clearBits_length (bs : List Byte) (b e : Nat) : (clearBits bs b e).length = bs.length := by
  simp [clearBits]

/-- Every bit of the buffer after `clearBits`. -/
theorem bufBit_clearBits (bs : List Byte) (b e i : Nat) :
    bufBit (clearBits bs b e) i = if b ≤ i ∧ i < e then false else bufBit bs i := by
  rw [clearBits, bufBit_rewriteBits]
  by_cases h : b ≤ i ∧ i < e
  · rw [if_pos h]
    split
    · rfl
    · exact bufBit_of_ge (by omega)
  · rw [if_neg h, if_neg (by omega)]

@[simp] theorem setBufBit_length (bs : List Byte) (i : Nat) (v : Bool) : (setBufBit bs i v).length = bs.length := by
  simp [setBufBit]

/-- One bit of a byte set by the mask formula of 41_single_bit.md R131. -/
theorem setBit_getLsbD (x : Byte) (v : Bool) {p j : Nat} (hp : p < 8) (hj : j < 8) :
    ((x &&& ~~~((1 : Byte) <<< p)) ||| (BitVec.ofBool v).setWidth 8 <<< p).getLsbD j
      = if j = p then v else x.getLsbD j := by
  have one : ∀ p j : Fin 8, ((1 : Byte) <<< p.val).getLsbD j = decide (j = p) := by decide
  have bit : ∀ (v : Bool) (p j : Fin 8),
      ((BitVec.ofBool v).setWidth 8 <<< p.val : Byte).getLsbD j = (decide (j = p) && v) := by decide
  have h1 := one ⟨p, hp⟩ ⟨j, hj⟩
  have h2 := bit v ⟨p, hp⟩ ⟨j, hj⟩
  simp only [Fin.mk.injEq] at h1 h2
  rw [BitVec.getLsbD_or, BitVec.getLsbD_and, BitVec.getLsbD_not, h1, h2]
  by_cases h : j = p <;> simp [h, hp, hj]

/-- Every bit of the buffer after `setBufBit`. -/
theorem bufBit_setBufBit (bs : List Byte) (i : Nat) (v : Bool) (hi : i < 8 * bs.length) (j : Nat) :
    bufBit (setBufBit bs i v) j = if j = i then v else bufBit bs j := by
  have hb : i / 8 < bs.length := by omega
  by_cases hk : i / 8 = j / 8
  · have hj : bufByte (setBufBit bs i v) (j / 8)
        = (bufByte bs (i / 8) &&& ~~~((1 : Byte) <<< (i % 8))) ||| (BitVec.ofBool v).setWidth 8 <<< (i % 8) := by
      rw [← hk]
      simp [setBufBit, bufByte, List.getD_eq_getElem?_getD, hb]
    rw [bufBit, hj, setBit_getLsbD _ _ (Nat.mod_lt _ (by decide)) (Nat.mod_lt _ (by decide)), hk]
    by_cases h : j = i
    · subst h; simp
    · rw [if_neg h, if_neg (by omega), ← bufBit]
  · have hj : bufByte (setBufBit bs i v) (j / 8) = bufByte bs (j / 8) := by
      simp [setBufBit, bufByte, List.getD_eq_getElem?_getD, List.getElem?_set_ne hk]
    rw [bufBit, hj, if_neg (by omega), ← bufBit]

@[simp] theorem regrow_length (bs : List Byte) (ob nb d : Nat) : (regrow bs ob nb d).length = nb := by
  simp [regrow]

theorem bufByte_regrow (bs : List Byte) {ob nb : Nat} (d : Nat) {k : Nat} (h : k < nb) :
    bufByte (regrow bs ob nb d) k = if k < ob then bufByte bs k else Config.undef (d + (k - ob)) := by
  simp [regrow, bufByte, List.getD_eq_getElem?_getD, h]

@[simp] theorem freshBytes_length (z : Bool) (nb d : Nat) : (freshBytes z nb d).length = nb := by
  simp [freshBytes]

theorem bufByte_freshBytes (z : Bool) {nb : Nat} (d : Nat) {k : Nat} (h : k < nb) :
    bufByte (freshBytes z nb d) k = if z then 0 else Config.undef (d + k) := by
  simp [freshBytes, bufByte, List.getD_eq_getElem?_getD, h]

end Sys2Proof.Machine
end

