-- ==== Sys2Proof/Laws/Decode.lean ====
section
/-! SUPPORT. The fields of a command word as numbers. -/

namespace Sys2Proof

theorem cmdFields_opc_toNat (w : CmdWord) : (cmdFields w).opc.toNat = w.toNat % 256 := by
  simp [cmdFields]

theorem cmdFields_f (w : CmdWord) : (cmdFields w).f = decide (w.toNat / 256 % 2 = 1) := by
  simp [cmdFields, BitVec.getLsbD, Nat.testBit_eq_decide_div_mod_eq]

theorem cmdFields_rsv_toNat (w : CmdWord) : (cmdFields w).rsv.toNat = w.toNat / 512 := by
  have := w.isLt
  simp only [cmdFields, BitVec.extractLsb'_toNat, Nat.shiftRight_eq_div_pow]
  omega

end Sys2Proof
end

