-- ==== Sys2Proof/Laws/Memory.lean ====
section
/-! SUPPORT. The laws of XMEM: every operation keeps the canonical form, a read after a write gives the value, and a
write leaves every other byte alone. -/

namespace Sys2Proof.Machine

@[simp] theorem Memory.read_nil (a : Nat) : Memory.read [] a = Memory.unlisted := rfl

theorem Memory.read_of_lt {m : Memory} {a : Nat} (h : ∀ c ∈ m, a < c.1) : Memory.read m a = Memory.unlisted := by
  induction m with
  | nil => rfl
  | cons c rest ih =>
    have hc := h c (by simp)
    simp only [Memory.read, if_neg (Nat.ne_of_gt hc)]
    exact ih fun d hd => h d (by simp [hd])

theorem Memory.mem_write {m : Memory} {a : Nat} {v : Byte} {c : Host.Cell} (h : c ∈ Memory.write m a v) :
    c = (a, v) ∧ v ≠ Memory.unlisted ∨ c ∈ m := by
  induction m with
  | nil =>
    simp only [Memory.write] at h
    split at h <;> simp_all
  | cons d rest ih =>
    simp only [Memory.write] at h
    split at h
    · split at h <;> simp_all
    · split at h
      · split at h
        · simp_all
        · rcases List.mem_cons.1 h with rfl | h
          · exact .inl ⟨rfl, by assumption⟩
          · exact .inr (by simp [h])
      · rcases List.mem_cons.1 h with rfl | h
        · exact .inr (by simp)
        · rcases ih h with h | h
          · exact .inl h
          · exact .inr (by simp [h])

theorem Memory.write_wf {m : Memory} {a : Nat} {v : Byte} (h : Memory.wf m) (ha : a < 2 ^ 64) :
    Memory.wf (Memory.write m a v) := by
  refine ⟨?_, fun c hc => ?_⟩
  · obtain ⟨hs, hv⟩ := h
    induction m with
    | nil => simp only [Memory.write]; split <;> simp
    | cons d rest ih =>
      have hd := List.pairwise_cons.1 hs
      simp only [Memory.write]
      split
      · rename_i hlt
        split
        · exact hs
        · refine List.pairwise_cons.2 ⟨fun c hc => ?_, hs⟩
          rcases List.mem_cons.1 hc with rfl | hc
          · exact hlt
          · exact Nat.lt_trans hlt (hd.1 c hc)
      · split
        · rename_i heq
          split
          · exact hd.2
          · exact List.pairwise_cons.2 ⟨fun c hc => heq ▸ hd.1 c hc, hd.2⟩
        · rename_i hnlt hne
          refine List.pairwise_cons.2 ⟨fun c hc => ?_, ih hd.2 fun c hc => hv c (by simp [hc])⟩
          rcases Memory.mem_write hc with ⟨rfl, _⟩ | hc
          · exact Nat.lt_of_le_of_ne (Nat.not_lt.1 hnlt) (Ne.symm hne)
          · exact hd.1 c hc
  · rcases Memory.mem_write hc with ⟨rfl, hv⟩ | hc
    · exact ⟨ha, hv⟩
    · exact h.2 c hc

/-- What a byte reads as after a write, in a memory whose addresses rise. -/
theorem Memory.read_write {m : Memory} (h : m.Pairwise fun c d => c.1 < d.1) (a : Nat) (v : Byte) (b : Nat) :
    Memory.read (Memory.write m a v) b = if b = a then v else Memory.read m b := by
  induction m with
  | nil =>
    simp only [Memory.write]
    split
    · simp_all
    · simp only [Memory.read, eq_comm]
  | cons d rest ih =>
    have hd := List.pairwise_cons.1 h
    simp only [Memory.write]
    split
    · rename_i hlt
      by_cases hb : b = a
      · subst hb
        have : Memory.read (d :: rest) b = Memory.unlisted := by
          refine Memory.read_of_lt fun c hc => ?_
          rcases List.mem_cons.1 hc with rfl | hc
          · exact hlt
          · exact Nat.lt_trans hlt (hd.1 c hc)
        split
        · simp_all
        · simp [Memory.read]
      · rw [if_neg hb]
        split
        · rfl
        · conv_lhs => rw [Memory.read, if_neg (Ne.symm hb)]
    · split
      · rename_i heq
        by_cases hb : b = a
        · subst hb
          have : Memory.read rest b = Memory.unlisted := Memory.read_of_lt fun c hc => heq ▸ hd.1 c hc
          split
          · simp_all
          · simp [Memory.read]
        · have hne : d.1 ≠ b := fun h => hb (by omega)
          rw [if_neg hb]
          split
          · simp [Memory.read, hne]
          · simp [Memory.read, hne, Ne.symm hb]
      · rename_i hnlt hne
        by_cases hb : d.1 = b
        · have : b ≠ a := by omega
          simp [Memory.read, hb, this]
        · simp only [Memory.read, if_neg hb, ih hd.2]

theorem Memory.read_write_same {m : Memory} (h : Memory.wf m) (a : Nat) (v : Byte) :
    Memory.read (Memory.write m a v) a = v := by
  rw [Memory.read_write h.1, if_pos rfl]

theorem Memory.read_write_other {m : Memory} (h : Memory.wf m) {a b : Nat} (v : Byte) (hb : b ≠ a) :
    Memory.read (Memory.write m a v) b = Memory.read m b := by
  rw [Memory.read_write h.1, if_neg hb]

theorem Memory.storeFrom_wf (stays : Nat → Bool) (a : Nat) (bs : List Byte) :
    ∀ (k : Nat) (m : Memory), Memory.wf m → a + k + bs.length ≤ 2 ^ 64 →
      Memory.wf (Memory.storeFrom stays a k bs m) := by
  induction bs with
  | nil => intro k m h _; exact h
  | cons b bs ih =>
    intro k m h hk
    simp only [List.length_cons] at hk
    refine ih (k + 1) _ ?_ (by omega)
    split
    · exact h
    · exact Memory.write_wf h (by omega)

/-- What `Memory.storeFrom` leaves in every byte: outside the stored range, and where `stays` says so, the old value;
elsewhere the stored byte. -/
theorem Memory.read_storeFrom (stays : Nat → Bool) (a : Nat) (bs : List Byte) :
    ∀ (k : Nat) (m : Memory), Memory.wf m → a + k + bs.length ≤ 2 ^ 64 → ∀ b,
      Memory.read (Memory.storeFrom stays a k bs m) b =
        if a + k ≤ b ∧ b < a + k + bs.length then
          (if stays (b - a) then Memory.read m b else bs.getD (b - a - k) 0)
        else Memory.read m b := by
  induction bs with
  | nil =>
    intro k m _ _ b
    rw [if_neg (by simp only [List.length_nil]; omega)]
    rfl
  | cons x bs ih =>
    intro k m h hk b
    simp only [List.length_cons] at hk
    have hm : Memory.wf (if stays k then m else Memory.write m (a + k) x) := by
      split
      · exact h
      · exact Memory.write_wf h (by omega)
    simp only [Memory.storeFrom, List.length_cons]
    rw [ih (k + 1) _ hm (by omega)]
    by_cases hb : b = a + k
    · have hout : ¬(a + (k + 1) ≤ b ∧ b < a + (k + 1) + bs.length) := by omega
      have hin : a + k ≤ b ∧ b < a + k + (bs.length + 1) := by omega
      rw [if_neg hout, if_pos hin, show b - a = k by omega, hb]
      by_cases hs : stays k = true
      · simp [hs]
      · simp [hs, Memory.read_write_same h]
    · have hread : Memory.read (if stays k then m else Memory.write m (a + k) x) b = Memory.read m b := by
        split
        · rfl
        · exact Memory.read_write_other h x hb
      rw [hread]
      by_cases hin : a + (k + 1) ≤ b ∧ b < a + (k + 1) + bs.length
      · have hin' : a + k ≤ b ∧ b < a + k + (bs.length + 1) := by omega
        rw [if_pos hin, if_pos hin', show b - a - k = b - a - (k + 1) + 1 by omega, List.getD_cons_succ]
      · have hout : ¬(a + k ≤ b ∧ b < a + k + (bs.length + 1)) := by omega
        rw [if_neg hin, if_neg hout]

end Sys2Proof.Machine
end

