-- ==== Sys2Proof/Laws/State.lean ====
section
/-! SUPPORT. One lemma per field per update of State, true by rfl, so that no later proof unfolds a record update. -/

namespace Sys2Proof.Machine

variable (s : State)

/-! ## withBmem -/

@[simp] theorem State.withBmem_bmem (bs : List Byte) : (s.withBmem bs).bmem = bs := rfl
@[simp] theorem State.withBmem_size (bs : List Byte) : (s.withBmem bs).size = s.size := rfl
@[simp] theorem State.withBmem_capacity (bs : List Byte) : (s.withBmem bs).capacity = s.capacity := rfl
@[simp] theorem State.withBmem_present (bs : List Byte) : (s.withBmem bs).present = s.present := rfl
@[simp] theorem State.withBmem_gen (bs : List Byte) : (s.withBmem bs).gen = s.gen := rfl
@[simp] theorem State.withBmem_arg0 (bs : List Byte) : (s.withBmem bs).arg0 = s.arg0 := rfl
@[simp] theorem State.withBmem_arg1 (bs : List Byte) : (s.withBmem bs).arg1 = s.arg1 := rfl
@[simp] theorem State.withBmem_arg2 (bs : List Byte) : (s.withBmem bs).arg2 = s.arg2 := rfl
@[simp] theorem State.withBmem_res0 (bs : List Byte) : (s.withBmem bs).res0 = s.res0 := rfl
@[simp] theorem State.withBmem_res1 (bs : List Byte) : (s.withBmem bs).res1 = s.res1 := rfl
@[simp] theorem State.withBmem_busy (bs : List Byte) : (s.withBmem bs).busy = s.busy := rfl
@[simp] theorem State.withBmem_err (bs : List Byte) : (s.withBmem bs).err = s.err := rfl
@[simp] theorem State.withBmem_faults (bs : List Byte) : (s.withBmem bs).faults = s.faults := rfl
@[simp] theorem State.withBmem_lcmd (bs : List Byte) : (s.withBmem bs).lcmd = s.lcmd := rfl
@[simp] theorem State.withBmem_larg0 (bs : List Byte) : (s.withBmem bs).larg0 = s.larg0 := rfl
@[simp] theorem State.withBmem_larg1 (bs : List Byte) : (s.withBmem bs).larg1 = s.larg1 := rfl
@[simp] theorem State.withBmem_larg2 (bs : List Byte) : (s.withBmem bs).larg2 = s.larg2 := rfl
@[simp] theorem State.withBmem_xmem (bs : List Byte) : (s.withBmem bs).xmem = s.xmem := rfl
@[simp] theorem State.withBmem_platform (bs : List Byte) : (s.withBmem bs).platform = s.platform := rfl
@[simp] theorem State.withBmem_turns (bs : List Byte) : (s.withBmem bs).turns = s.turns := rfl
@[simp] theorem State.withBmem_hostData (bs : List Byte) : (s.withBmem bs).hostData = s.hostData := rfl
@[simp] theorem State.withBmem_allocAnswers (bs : List Byte) :
    (s.withBmem bs).allocAnswers = s.allocAnswers := rfl
@[simp] theorem State.withBmem_raced (bs : List Byte) : (s.withBmem bs).raced = s.raced := rfl
@[simp] theorem State.withBmem_draws (bs : List Byte) : (s.withBmem bs).draws = s.draws := rfl

/-! ## replaceBuffer -/

@[simp] theorem State.replaceBuffer_bmem (bs : List Byte) (n c : Word) (p : Bool) :
    (s.replaceBuffer bs n c p).bmem = bs := rfl
@[simp] theorem State.replaceBuffer_size (bs : List Byte) (n c : Word) (p : Bool) :
    (s.replaceBuffer bs n c p).size = n := rfl
@[simp] theorem State.replaceBuffer_capacity (bs : List Byte) (n c : Word) (p : Bool) :
    (s.replaceBuffer bs n c p).capacity = c := rfl
@[simp] theorem State.replaceBuffer_present (bs : List Byte) (n c : Word) (p : Bool) :
    (s.replaceBuffer bs n c p).present = p := rfl
@[simp] theorem State.replaceBuffer_gen (bs : List Byte) (n c : Word) (p : Bool) :
    (s.replaceBuffer bs n c p).gen = s.gen + 1 := rfl
@[simp] theorem State.replaceBuffer_arg0 (bs : List Byte) (n c : Word) (p : Bool) :
    (s.replaceBuffer bs n c p).arg0 = s.arg0 := rfl
@[simp] theorem State.replaceBuffer_arg1 (bs : List Byte) (n c : Word) (p : Bool) :
    (s.replaceBuffer bs n c p).arg1 = s.arg1 := rfl
@[simp] theorem State.replaceBuffer_arg2 (bs : List Byte) (n c : Word) (p : Bool) :
    (s.replaceBuffer bs n c p).arg2 = s.arg2 := rfl
@[simp] theorem State.replaceBuffer_res0 (bs : List Byte) (n c : Word) (p : Bool) :
    (s.replaceBuffer bs n c p).res0 = s.res0 := rfl
@[simp] theorem State.replaceBuffer_res1 (bs : List Byte) (n c : Word) (p : Bool) :
    (s.replaceBuffer bs n c p).res1 = s.res1 := rfl
@[simp] theorem State.replaceBuffer_busy (bs : List Byte) (n c : Word) (p : Bool) :
    (s.replaceBuffer bs n c p).busy = s.busy := rfl
@[simp] theorem State.replaceBuffer_err (bs : List Byte) (n c : Word) (p : Bool) :
    (s.replaceBuffer bs n c p).err = s.err := rfl
@[simp] theorem State.replaceBuffer_faults (bs : List Byte) (n c : Word) (p : Bool) :
    (s.replaceBuffer bs n c p).faults = s.faults := rfl
@[simp] theorem State.replaceBuffer_lcmd (bs : List Byte) (n c : Word) (p : Bool) :
    (s.replaceBuffer bs n c p).lcmd = s.lcmd := rfl
@[simp] theorem State.replaceBuffer_larg0 (bs : List Byte) (n c : Word) (p : Bool) :
    (s.replaceBuffer bs n c p).larg0 = s.larg0 := rfl
@[simp] theorem State.replaceBuffer_larg1 (bs : List Byte) (n c : Word) (p : Bool) :
    (s.replaceBuffer bs n c p).larg1 = s.larg1 := rfl
@[simp] theorem State.replaceBuffer_larg2 (bs : List Byte) (n c : Word) (p : Bool) :
    (s.replaceBuffer bs n c p).larg2 = s.larg2 := rfl
@[simp] theorem State.replaceBuffer_xmem (bs : List Byte) (n c : Word) (p : Bool) :
    (s.replaceBuffer bs n c p).xmem = s.xmem := rfl
@[simp] theorem State.replaceBuffer_platform (bs : List Byte) (n c : Word) (p : Bool) :
    (s.replaceBuffer bs n c p).platform = s.platform := rfl
@[simp] theorem State.replaceBuffer_turns (bs : List Byte) (n c : Word) (p : Bool) :
    (s.replaceBuffer bs n c p).turns = s.turns := rfl
@[simp] theorem State.replaceBuffer_hostData (bs : List Byte) (n c : Word) (p : Bool) :
    (s.replaceBuffer bs n c p).hostData = s.hostData := rfl
@[simp] theorem State.replaceBuffer_allocAnswers (bs : List Byte) (n c : Word) (p : Bool) :
    (s.replaceBuffer bs n c p).allocAnswers = s.allocAnswers := rfl
@[simp] theorem State.replaceBuffer_raced (bs : List Byte) (n c : Word) (p : Bool) :
    (s.replaceBuffer bs n c p).raced = s.raced := rfl
@[simp] theorem State.replaceBuffer_draws (bs : List Byte) (n c : Word) (p : Bool) :
    (s.replaceBuffer bs n c p).draws = s.draws := rfl

/-! ## takeDraws -/

@[simp] theorem State.takeDraws_bmem (n : Nat) : (s.takeDraws n).bmem = s.bmem := rfl
@[simp] theorem State.takeDraws_size (n : Nat) : (s.takeDraws n).size = s.size := rfl
@[simp] theorem State.takeDraws_capacity (n : Nat) : (s.takeDraws n).capacity = s.capacity := rfl
@[simp] theorem State.takeDraws_present (n : Nat) : (s.takeDraws n).present = s.present := rfl
@[simp] theorem State.takeDraws_gen (n : Nat) : (s.takeDraws n).gen = s.gen := rfl
@[simp] theorem State.takeDraws_arg0 (n : Nat) : (s.takeDraws n).arg0 = s.arg0 := rfl
@[simp] theorem State.takeDraws_arg1 (n : Nat) : (s.takeDraws n).arg1 = s.arg1 := rfl
@[simp] theorem State.takeDraws_arg2 (n : Nat) : (s.takeDraws n).arg2 = s.arg2 := rfl
@[simp] theorem State.takeDraws_res0 (n : Nat) : (s.takeDraws n).res0 = s.res0 := rfl
@[simp] theorem State.takeDraws_res1 (n : Nat) : (s.takeDraws n).res1 = s.res1 := rfl
@[simp] theorem State.takeDraws_busy (n : Nat) : (s.takeDraws n).busy = s.busy := rfl
@[simp] theorem State.takeDraws_err (n : Nat) : (s.takeDraws n).err = s.err := rfl
@[simp] theorem State.takeDraws_faults (n : Nat) : (s.takeDraws n).faults = s.faults := rfl
@[simp] theorem State.takeDraws_lcmd (n : Nat) : (s.takeDraws n).lcmd = s.lcmd := rfl
@[simp] theorem State.takeDraws_larg0 (n : Nat) : (s.takeDraws n).larg0 = s.larg0 := rfl
@[simp] theorem State.takeDraws_larg1 (n : Nat) : (s.takeDraws n).larg1 = s.larg1 := rfl
@[simp] theorem State.takeDraws_larg2 (n : Nat) : (s.takeDraws n).larg2 = s.larg2 := rfl
@[simp] theorem State.takeDraws_xmem (n : Nat) : (s.takeDraws n).xmem = s.xmem := rfl
@[simp] theorem State.takeDraws_platform (n : Nat) : (s.takeDraws n).platform = s.platform := rfl
@[simp] theorem State.takeDraws_turns (n : Nat) : (s.takeDraws n).turns = s.turns := rfl
@[simp] theorem State.takeDraws_hostData (n : Nat) : (s.takeDraws n).hostData = s.hostData := rfl
@[simp] theorem State.takeDraws_allocAnswers (n : Nat) :
    (s.takeDraws n).allocAnswers = s.allocAnswers := rfl
@[simp] theorem State.takeDraws_raced (n : Nat) : (s.takeDraws n).raced = s.raced := rfl
@[simp] theorem State.takeDraws_draws (n : Nat) : (s.takeDraws n).draws = s.draws + n := rfl

/-! ## complete -/

@[simp] theorem State.complete_bmem (r0 r1 : Word) : (s.complete r0 r1).bmem = s.bmem := rfl
@[simp] theorem State.complete_size (r0 r1 : Word) : (s.complete r0 r1).size = s.size := rfl
@[simp] theorem State.complete_capacity (r0 r1 : Word) : (s.complete r0 r1).capacity = s.capacity := rfl
@[simp] theorem State.complete_present (r0 r1 : Word) : (s.complete r0 r1).present = s.present := rfl
@[simp] theorem State.complete_gen (r0 r1 : Word) : (s.complete r0 r1).gen = s.gen := rfl
@[simp] theorem State.complete_arg0 (r0 r1 : Word) : (s.complete r0 r1).arg0 = s.arg0 := rfl
@[simp] theorem State.complete_arg1 (r0 r1 : Word) : (s.complete r0 r1).arg1 = s.arg1 := rfl
@[simp] theorem State.complete_arg2 (r0 r1 : Word) : (s.complete r0 r1).arg2 = s.arg2 := rfl
@[simp] theorem State.complete_res0 (r0 r1 : Word) : (s.complete r0 r1).res0 = r0 := rfl
@[simp] theorem State.complete_res1 (r0 r1 : Word) : (s.complete r0 r1).res1 = r1 := rfl
@[simp] theorem State.complete_busy (r0 r1 : Word) : (s.complete r0 r1).busy = false := rfl
@[simp] theorem State.complete_err (r0 r1 : Word) : (s.complete r0 r1).err = .ok := rfl
@[simp] theorem State.complete_faults (r0 r1 : Word) : (s.complete r0 r1).faults = s.faults := rfl
@[simp] theorem State.complete_lcmd (r0 r1 : Word) : (s.complete r0 r1).lcmd = s.lcmd := rfl
@[simp] theorem State.complete_larg0 (r0 r1 : Word) : (s.complete r0 r1).larg0 = s.larg0 := rfl
@[simp] theorem State.complete_larg1 (r0 r1 : Word) : (s.complete r0 r1).larg1 = s.larg1 := rfl
@[simp] theorem State.complete_larg2 (r0 r1 : Word) : (s.complete r0 r1).larg2 = s.larg2 := rfl
@[simp] theorem State.complete_xmem (r0 r1 : Word) : (s.complete r0 r1).xmem = s.xmem := rfl
@[simp] theorem State.complete_platform (r0 r1 : Word) : (s.complete r0 r1).platform = s.platform := rfl
@[simp] theorem State.complete_turns (r0 r1 : Word) : (s.complete r0 r1).turns = s.turns := rfl
@[simp] theorem State.complete_hostData (r0 r1 : Word) : (s.complete r0 r1).hostData = s.hostData := rfl
@[simp] theorem State.complete_allocAnswers (r0 r1 : Word) :
    (s.complete r0 r1).allocAnswers = s.allocAnswers := rfl
@[simp] theorem State.complete_raced (r0 r1 : Word) : (s.complete r0 r1).raced = [] := rfl
@[simp] theorem State.complete_draws (r0 r1 : Word) : (s.complete r0 r1).draws = s.draws := rfl

/-! ## raise -/

@[simp] theorem State.raise_bmem (e : ErrCode) : (s.raise e).bmem = s.bmem := rfl
@[simp] theorem State.raise_size (e : ErrCode) : (s.raise e).size = s.size := rfl
@[simp] theorem State.raise_capacity (e : ErrCode) : (s.raise e).capacity = s.capacity := rfl
@[simp] theorem State.raise_present (e : ErrCode) : (s.raise e).present = s.present := rfl
@[simp] theorem State.raise_gen (e : ErrCode) : (s.raise e).gen = s.gen := rfl
@[simp] theorem State.raise_arg0 (e : ErrCode) : (s.raise e).arg0 = s.arg0 := rfl
@[simp] theorem State.raise_arg1 (e : ErrCode) : (s.raise e).arg1 = s.arg1 := rfl
@[simp] theorem State.raise_arg2 (e : ErrCode) : (s.raise e).arg2 = s.arg2 := rfl
@[simp] theorem State.raise_res0 (e : ErrCode) : (s.raise e).res0 = 0 := rfl
@[simp] theorem State.raise_res1 (e : ErrCode) : (s.raise e).res1 = 0 := rfl
@[simp] theorem State.raise_busy (e : ErrCode) : (s.raise e).busy = false := rfl
@[simp] theorem State.raise_err (e : ErrCode) : (s.raise e).err = e := rfl
@[simp] theorem State.raise_faults (e : ErrCode) : (s.raise e).faults = s.faults ||| e.faultBits := rfl
@[simp] theorem State.raise_lcmd (e : ErrCode) : (s.raise e).lcmd = s.lcmd := rfl
@[simp] theorem State.raise_larg0 (e : ErrCode) : (s.raise e).larg0 = s.larg0 := rfl
@[simp] theorem State.raise_larg1 (e : ErrCode) : (s.raise e).larg1 = s.larg1 := rfl
@[simp] theorem State.raise_larg2 (e : ErrCode) : (s.raise e).larg2 = s.larg2 := rfl
@[simp] theorem State.raise_xmem (e : ErrCode) : (s.raise e).xmem = s.xmem := rfl
@[simp] theorem State.raise_platform (e : ErrCode) : (s.raise e).platform = s.platform := rfl
@[simp] theorem State.raise_turns (e : ErrCode) : (s.raise e).turns = s.turns := rfl
@[simp] theorem State.raise_hostData (e : ErrCode) : (s.raise e).hostData = s.hostData := rfl
@[simp] theorem State.raise_allocAnswers (e : ErrCode) : (s.raise e).allocAnswers = s.allocAnswers := rfl
@[simp] theorem State.raise_raced (e : ErrCode) : (s.raise e).raced = [] := rfl
@[simp] theorem State.raise_draws (e : ErrCode) : (s.raise e).draws = s.draws := rfl

/-! ## afterRequest -/

@[simp] theorem State.afterRequest_bmem (n : Nat) : (s.afterRequest n).bmem = s.bmem := rfl
@[simp] theorem State.afterRequest_size (n : Nat) : (s.afterRequest n).size = s.size := rfl
@[simp] theorem State.afterRequest_capacity (n : Nat) : (s.afterRequest n).capacity = s.capacity := rfl
@[simp] theorem State.afterRequest_present (n : Nat) : (s.afterRequest n).present = s.present := rfl
@[simp] theorem State.afterRequest_gen (n : Nat) : (s.afterRequest n).gen = s.gen := rfl
@[simp] theorem State.afterRequest_arg0 (n : Nat) : (s.afterRequest n).arg0 = s.arg0 := rfl
@[simp] theorem State.afterRequest_arg1 (n : Nat) : (s.afterRequest n).arg1 = s.arg1 := rfl
@[simp] theorem State.afterRequest_arg2 (n : Nat) : (s.afterRequest n).arg2 = s.arg2 := rfl
@[simp] theorem State.afterRequest_res0 (n : Nat) : (s.afterRequest n).res0 = s.res0 := rfl
@[simp] theorem State.afterRequest_res1 (n : Nat) : (s.afterRequest n).res1 = s.res1 := rfl
@[simp] theorem State.afterRequest_busy (n : Nat) : (s.afterRequest n).busy = s.busy := rfl
@[simp] theorem State.afterRequest_err (n : Nat) : (s.afterRequest n).err = s.err := rfl
@[simp] theorem State.afterRequest_faults (n : Nat) : (s.afterRequest n).faults = s.faults := rfl
@[simp] theorem State.afterRequest_lcmd (n : Nat) : (s.afterRequest n).lcmd = s.lcmd := rfl
@[simp] theorem State.afterRequest_larg0 (n : Nat) : (s.afterRequest n).larg0 = s.larg0 := rfl
@[simp] theorem State.afterRequest_larg1 (n : Nat) : (s.afterRequest n).larg1 = s.larg1 := rfl
@[simp] theorem State.afterRequest_larg2 (n : Nat) : (s.afterRequest n).larg2 = s.larg2 := rfl
@[simp] theorem State.afterRequest_xmem (n : Nat) : (s.afterRequest n).xmem = s.xmem := rfl
@[simp] theorem State.afterRequest_platform (n : Nat) : (s.afterRequest n).platform = s.platform := rfl
@[simp] theorem State.afterRequest_turns (n : Nat) : (s.afterRequest n).turns = s.turns := rfl
@[simp] theorem State.afterRequest_hostData (n : Nat) : (s.afterRequest n).hostData = s.hostData := rfl
@[simp] theorem State.afterRequest_allocAnswers (n : Nat) :
    (s.afterRequest n).allocAnswers = if s.platform.maxBytes < n then s.allocAnswers else s.allocAnswers.tail := rfl
@[simp] theorem State.afterRequest_raced (n : Nat) : (s.afterRequest n).raced = s.raced := rfl
@[simp] theorem State.afterRequest_draws (n : Nat) : (s.afterRequest n).draws = s.draws + 1 := rfl

/-! ## acceptCommand -/

@[simp] theorem State.acceptCommand_bmem (w : CmdWord) : (s.acceptCommand w).bmem = s.bmem := rfl
@[simp] theorem State.acceptCommand_size (w : CmdWord) : (s.acceptCommand w).size = s.size := rfl
@[simp] theorem State.acceptCommand_capacity (w : CmdWord) :
    (s.acceptCommand w).capacity = s.capacity := rfl
@[simp] theorem State.acceptCommand_present (w : CmdWord) : (s.acceptCommand w).present = s.present := rfl
@[simp] theorem State.acceptCommand_gen (w : CmdWord) : (s.acceptCommand w).gen = s.gen := rfl
@[simp] theorem State.acceptCommand_arg0 (w : CmdWord) : (s.acceptCommand w).arg0 = s.arg0 := rfl
@[simp] theorem State.acceptCommand_arg1 (w : CmdWord) : (s.acceptCommand w).arg1 = s.arg1 := rfl
@[simp] theorem State.acceptCommand_arg2 (w : CmdWord) : (s.acceptCommand w).arg2 = s.arg2 := rfl
@[simp] theorem State.acceptCommand_res0 (w : CmdWord) : (s.acceptCommand w).res0 = s.res0 := rfl
@[simp] theorem State.acceptCommand_res1 (w : CmdWord) : (s.acceptCommand w).res1 = s.res1 := rfl
@[simp] theorem State.acceptCommand_busy (w : CmdWord) : (s.acceptCommand w).busy = true := rfl
@[simp] theorem State.acceptCommand_err (w : CmdWord) : (s.acceptCommand w).err = s.err := rfl
@[simp] theorem State.acceptCommand_faults (w : CmdWord) : (s.acceptCommand w).faults = s.faults := rfl
@[simp] theorem State.acceptCommand_lcmd (w : CmdWord) : (s.acceptCommand w).lcmd = w := rfl
@[simp] theorem State.acceptCommand_larg0 (w : CmdWord) : (s.acceptCommand w).larg0 = s.arg0 := rfl
@[simp] theorem State.acceptCommand_larg1 (w : CmdWord) : (s.acceptCommand w).larg1 = s.arg1 := rfl
@[simp] theorem State.acceptCommand_larg2 (w : CmdWord) : (s.acceptCommand w).larg2 = s.arg2 := rfl
@[simp] theorem State.acceptCommand_xmem (w : CmdWord) : (s.acceptCommand w).xmem = s.xmem := rfl
@[simp] theorem State.acceptCommand_platform (w : CmdWord) :
    (s.acceptCommand w).platform = s.platform := rfl
@[simp] theorem State.acceptCommand_turns (w : CmdWord) : (s.acceptCommand w).turns = s.turns := rfl
@[simp] theorem State.acceptCommand_hostData (w : CmdWord) :
    (s.acceptCommand w).hostData = s.hostData := rfl
@[simp] theorem State.acceptCommand_allocAnswers (w : CmdWord) :
    (s.acceptCommand w).allocAnswers = s.allocAnswers := rfl
@[simp] theorem State.acceptCommand_raced (w : CmdWord) : (s.acceptCommand w).raced = [] := rfl
@[simp] theorem State.acceptCommand_draws (w : CmdWord) : (s.acceptCommand w).draws = s.draws := rfl

/-! ## overrun -/

@[simp] theorem State.overrun_bmem : s.overrun.bmem = s.bmem := rfl
@[simp] theorem State.overrun_size : s.overrun.size = s.size := rfl
@[simp] theorem State.overrun_capacity : s.overrun.capacity = s.capacity := rfl
@[simp] theorem State.overrun_present : s.overrun.present = s.present := rfl
@[simp] theorem State.overrun_gen : s.overrun.gen = s.gen := rfl
@[simp] theorem State.overrun_arg0 : s.overrun.arg0 = s.arg0 := rfl
@[simp] theorem State.overrun_arg1 : s.overrun.arg1 = s.arg1 := rfl
@[simp] theorem State.overrun_arg2 : s.overrun.arg2 = s.arg2 := rfl
@[simp] theorem State.overrun_res0 : s.overrun.res0 = s.res0 := rfl
@[simp] theorem State.overrun_res1 : s.overrun.res1 = s.res1 := rfl
@[simp] theorem State.overrun_busy : s.overrun.busy = s.busy := rfl
@[simp] theorem State.overrun_err : s.overrun.err = s.err := rfl
@[simp] theorem State.overrun_faults : s.overrun.faults = s.faults ||| overrunBit := rfl
@[simp] theorem State.overrun_lcmd : s.overrun.lcmd = s.lcmd := rfl
@[simp] theorem State.overrun_larg0 : s.overrun.larg0 = s.larg0 := rfl
@[simp] theorem State.overrun_larg1 : s.overrun.larg1 = s.larg1 := rfl
@[simp] theorem State.overrun_larg2 : s.overrun.larg2 = s.larg2 := rfl
@[simp] theorem State.overrun_xmem : s.overrun.xmem = s.xmem := rfl
@[simp] theorem State.overrun_platform : s.overrun.platform = s.platform := rfl
@[simp] theorem State.overrun_turns : s.overrun.turns = s.turns := rfl
@[simp] theorem State.overrun_hostData : s.overrun.hostData = s.hostData := rfl
@[simp] theorem State.overrun_allocAnswers : s.overrun.allocAnswers = s.allocAnswers := rfl
@[simp] theorem State.overrun_raced : s.overrun.raced = s.raced := rfl
@[simp] theorem State.overrun_draws : s.overrun.draws = s.draws := rfl

/-! ## answerHost -/

@[simp] theorem State.answerHost_bmem (v : Word) : (s.answerHost v).bmem = s.bmem := rfl
@[simp] theorem State.answerHost_size (v : Word) : (s.answerHost v).size = s.size := rfl
@[simp] theorem State.answerHost_capacity (v : Word) : (s.answerHost v).capacity = s.capacity := rfl
@[simp] theorem State.answerHost_present (v : Word) : (s.answerHost v).present = s.present := rfl
@[simp] theorem State.answerHost_gen (v : Word) : (s.answerHost v).gen = s.gen := rfl
@[simp] theorem State.answerHost_arg0 (v : Word) : (s.answerHost v).arg0 = s.arg0 := rfl
@[simp] theorem State.answerHost_arg1 (v : Word) : (s.answerHost v).arg1 = s.arg1 := rfl
@[simp] theorem State.answerHost_arg2 (v : Word) : (s.answerHost v).arg2 = s.arg2 := rfl
@[simp] theorem State.answerHost_res0 (v : Word) : (s.answerHost v).res0 = s.res0 := rfl
@[simp] theorem State.answerHost_res1 (v : Word) : (s.answerHost v).res1 = s.res1 := rfl
@[simp] theorem State.answerHost_busy (v : Word) : (s.answerHost v).busy = s.busy := rfl
@[simp] theorem State.answerHost_err (v : Word) : (s.answerHost v).err = s.err := rfl
@[simp] theorem State.answerHost_faults (v : Word) : (s.answerHost v).faults = s.faults := rfl
@[simp] theorem State.answerHost_lcmd (v : Word) : (s.answerHost v).lcmd = s.lcmd := rfl
@[simp] theorem State.answerHost_larg0 (v : Word) : (s.answerHost v).larg0 = s.larg0 := rfl
@[simp] theorem State.answerHost_larg1 (v : Word) : (s.answerHost v).larg1 = s.larg1 := rfl
@[simp] theorem State.answerHost_larg2 (v : Word) : (s.answerHost v).larg2 = s.larg2 := rfl
@[simp] theorem State.answerHost_xmem (v : Word) : (s.answerHost v).xmem = s.xmem := rfl
@[simp] theorem State.answerHost_platform (v : Word) : (s.answerHost v).platform = s.platform := rfl
@[simp] theorem State.answerHost_turns (v : Word) : (s.answerHost v).turns = s.turns := rfl
@[simp] theorem State.answerHost_hostData (v : Word) : (s.answerHost v).hostData = v := rfl
@[simp] theorem State.answerHost_allocAnswers (v : Word) :
    (s.answerHost v).allocAnswers = s.allocAnswers := rfl
@[simp] theorem State.answerHost_raced (v : Word) : (s.answerHost v).raced = s.raced := rfl
@[simp] theorem State.answerHost_draws (v : Word) : (s.answerHost v).draws = s.draws := rfl

/-! ## popTurn -/

@[simp] theorem State.popTurn_bmem : s.popTurn.bmem = s.bmem := rfl
@[simp] theorem State.popTurn_size : s.popTurn.size = s.size := rfl
@[simp] theorem State.popTurn_capacity : s.popTurn.capacity = s.capacity := rfl
@[simp] theorem State.popTurn_present : s.popTurn.present = s.present := rfl
@[simp] theorem State.popTurn_gen : s.popTurn.gen = s.gen := rfl
@[simp] theorem State.popTurn_arg0 : s.popTurn.arg0 = s.arg0 := rfl
@[simp] theorem State.popTurn_arg1 : s.popTurn.arg1 = s.arg1 := rfl
@[simp] theorem State.popTurn_arg2 : s.popTurn.arg2 = s.arg2 := rfl
@[simp] theorem State.popTurn_res0 : s.popTurn.res0 = s.res0 := rfl
@[simp] theorem State.popTurn_res1 : s.popTurn.res1 = s.res1 := rfl
@[simp] theorem State.popTurn_busy : s.popTurn.busy = s.busy := rfl
@[simp] theorem State.popTurn_err : s.popTurn.err = s.err := rfl
@[simp] theorem State.popTurn_faults : s.popTurn.faults = s.faults := rfl
@[simp] theorem State.popTurn_lcmd : s.popTurn.lcmd = s.lcmd := rfl
@[simp] theorem State.popTurn_larg0 : s.popTurn.larg0 = s.larg0 := rfl
@[simp] theorem State.popTurn_larg1 : s.popTurn.larg1 = s.larg1 := rfl
@[simp] theorem State.popTurn_larg2 : s.popTurn.larg2 = s.larg2 := rfl
@[simp] theorem State.popTurn_xmem : s.popTurn.xmem = s.xmem := rfl
@[simp] theorem State.popTurn_platform : s.popTurn.platform = s.platform := rfl
@[simp] theorem State.popTurn_turns : s.popTurn.turns = s.turns.tail := rfl
@[simp] theorem State.popTurn_hostData : s.popTurn.hostData = s.hostData := rfl
@[simp] theorem State.popTurn_allocAnswers : s.popTurn.allocAnswers = s.allocAnswers := rfl
@[simp] theorem State.popTurn_raced : s.popTurn.raced = s.raced := rfl
@[simp] theorem State.popTurn_draws : s.popTurn.draws = s.draws := rfl

/-! ## yieldToController -/

@[simp] theorem State.yieldToController_bmem : s.yieldToController.bmem = s.bmem := rfl
@[simp] theorem State.yieldToController_size : s.yieldToController.size = s.size := rfl
@[simp] theorem State.yieldToController_capacity : s.yieldToController.capacity = s.capacity := rfl
@[simp] theorem State.yieldToController_present : s.yieldToController.present = s.present := rfl
@[simp] theorem State.yieldToController_gen : s.yieldToController.gen = s.gen := rfl
@[simp] theorem State.yieldToController_arg0 : s.yieldToController.arg0 = s.arg0 := rfl
@[simp] theorem State.yieldToController_arg1 : s.yieldToController.arg1 = s.arg1 := rfl
@[simp] theorem State.yieldToController_arg2 : s.yieldToController.arg2 = s.arg2 := rfl
@[simp] theorem State.yieldToController_res0 : s.yieldToController.res0 = s.res0 := rfl
@[simp] theorem State.yieldToController_res1 : s.yieldToController.res1 = s.res1 := rfl
@[simp] theorem State.yieldToController_busy : s.yieldToController.busy = s.busy := rfl
@[simp] theorem State.yieldToController_err : s.yieldToController.err = s.err := rfl
@[simp] theorem State.yieldToController_faults : s.yieldToController.faults = s.faults := rfl
@[simp] theorem State.yieldToController_lcmd : s.yieldToController.lcmd = s.lcmd := rfl
@[simp] theorem State.yieldToController_larg0 : s.yieldToController.larg0 = s.larg0 := rfl
@[simp] theorem State.yieldToController_larg1 : s.yieldToController.larg1 = s.larg1 := rfl
@[simp] theorem State.yieldToController_larg2 : s.yieldToController.larg2 = s.larg2 := rfl
@[simp] theorem State.yieldToController_xmem : s.yieldToController.xmem = s.xmem := rfl
@[simp] theorem State.yieldToController_platform : s.yieldToController.platform = s.platform := rfl
@[simp] theorem State.yieldToController_turns :
    s.yieldToController.turns = if s.turns = [] then [] else .controller :: s.turns := rfl
@[simp] theorem State.yieldToController_hostData : s.yieldToController.hostData = s.hostData := rfl
@[simp] theorem State.yieldToController_allocAnswers :
    s.yieldToController.allocAnswers = s.allocAnswers := rfl
@[simp] theorem State.yieldToController_raced : s.yieldToController.raced = s.raced := rfl
@[simp] theorem State.yieldToController_draws : s.yieldToController.draws = s.draws := rfl

/-! ## withXmem -/

@[simp] theorem State.withXmem_bmem (m : Memory) : (s.withXmem m).bmem = s.bmem := rfl
@[simp] theorem State.withXmem_size (m : Memory) : (s.withXmem m).size = s.size := rfl
@[simp] theorem State.withXmem_capacity (m : Memory) : (s.withXmem m).capacity = s.capacity := rfl
@[simp] theorem State.withXmem_present (m : Memory) : (s.withXmem m).present = s.present := rfl
@[simp] theorem State.withXmem_gen (m : Memory) : (s.withXmem m).gen = s.gen := rfl
@[simp] theorem State.withXmem_arg0 (m : Memory) : (s.withXmem m).arg0 = s.arg0 := rfl
@[simp] theorem State.withXmem_arg1 (m : Memory) : (s.withXmem m).arg1 = s.arg1 := rfl
@[simp] theorem State.withXmem_arg2 (m : Memory) : (s.withXmem m).arg2 = s.arg2 := rfl
@[simp] theorem State.withXmem_res0 (m : Memory) : (s.withXmem m).res0 = s.res0 := rfl
@[simp] theorem State.withXmem_res1 (m : Memory) : (s.withXmem m).res1 = s.res1 := rfl
@[simp] theorem State.withXmem_busy (m : Memory) : (s.withXmem m).busy = s.busy := rfl
@[simp] theorem State.withXmem_err (m : Memory) : (s.withXmem m).err = s.err := rfl
@[simp] theorem State.withXmem_faults (m : Memory) : (s.withXmem m).faults = s.faults := rfl
@[simp] theorem State.withXmem_lcmd (m : Memory) : (s.withXmem m).lcmd = s.lcmd := rfl
@[simp] theorem State.withXmem_larg0 (m : Memory) : (s.withXmem m).larg0 = s.larg0 := rfl
@[simp] theorem State.withXmem_larg1 (m : Memory) : (s.withXmem m).larg1 = s.larg1 := rfl
@[simp] theorem State.withXmem_larg2 (m : Memory) : (s.withXmem m).larg2 = s.larg2 := rfl
@[simp] theorem State.withXmem_xmem (m : Memory) : (s.withXmem m).xmem = m := rfl
@[simp] theorem State.withXmem_platform (m : Memory) : (s.withXmem m).platform = s.platform := rfl
@[simp] theorem State.withXmem_turns (m : Memory) : (s.withXmem m).turns = s.turns := rfl
@[simp] theorem State.withXmem_hostData (m : Memory) : (s.withXmem m).hostData = s.hostData := rfl
@[simp] theorem State.withXmem_allocAnswers (m : Memory) :
    (s.withXmem m).allocAnswers = s.allocAnswers := rfl
@[simp] theorem State.withXmem_raced (m : Memory) : (s.withXmem m).raced = s.raced := rfl
@[simp] theorem State.withXmem_draws (m : Memory) : (s.withXmem m).draws = s.draws := rfl

/-! ## sized -/

@[simp] theorem State.sized_bmem (z : Bool) :
    (s.sized z).bmem = freshBytes z (ceil8 s.larg0.toNat) (s.draws + 1) := rfl
@[simp] theorem State.sized_size (z : Bool) : (s.sized z).size = s.larg0 := rfl
@[simp] theorem State.sized_capacity (z : Bool) :
    (s.sized z).capacity = zextW (8 * ceil8 s.larg0.toNat) := rfl
@[simp] theorem State.sized_present (z : Bool) : (s.sized z).present = true := rfl
@[simp] theorem State.sized_gen (z : Bool) : (s.sized z).gen = s.gen + 1 := rfl
@[simp] theorem State.sized_arg0 (z : Bool) : (s.sized z).arg0 = s.arg0 := rfl
@[simp] theorem State.sized_arg1 (z : Bool) : (s.sized z).arg1 = s.arg1 := rfl
@[simp] theorem State.sized_arg2 (z : Bool) : (s.sized z).arg2 = s.arg2 := rfl
@[simp] theorem State.sized_res0 (z : Bool) : (s.sized z).res0 = s.res0 := rfl
@[simp] theorem State.sized_res1 (z : Bool) : (s.sized z).res1 = s.res1 := rfl
@[simp] theorem State.sized_busy (z : Bool) : (s.sized z).busy = s.busy := rfl
@[simp] theorem State.sized_err (z : Bool) : (s.sized z).err = s.err := rfl
@[simp] theorem State.sized_faults (z : Bool) : (s.sized z).faults = s.faults := rfl
@[simp] theorem State.sized_lcmd (z : Bool) : (s.sized z).lcmd = s.lcmd := rfl
@[simp] theorem State.sized_larg0 (z : Bool) : (s.sized z).larg0 = s.larg0 := rfl
@[simp] theorem State.sized_larg1 (z : Bool) : (s.sized z).larg1 = s.larg1 := rfl
@[simp] theorem State.sized_larg2 (z : Bool) : (s.sized z).larg2 = s.larg2 := rfl
@[simp] theorem State.sized_xmem (z : Bool) : (s.sized z).xmem = s.xmem := rfl
@[simp] theorem State.sized_platform (z : Bool) : (s.sized z).platform = s.platform := rfl
@[simp] theorem State.sized_turns (z : Bool) : (s.sized z).turns = s.turns := rfl
@[simp] theorem State.sized_hostData (z : Bool) : (s.sized z).hostData = s.hostData := rfl
@[simp] theorem State.sized_allocAnswers (z : Bool) :
    (s.sized z).allocAnswers = if s.platform.maxBytes < ceil8 s.larg0.toNat then s.allocAnswers else s.allocAnswers.tail := rfl
@[simp] theorem State.sized_raced (z : Bool) : (s.sized z).raced = s.raced := rfl
@[simp] theorem State.sized_draws (z : Bool) : (s.sized z).draws = s.draws + 1 + ceil8 s.larg0.toNat := rfl

/-! ## resized -/

@[simp] theorem State.resized_bmem :
    s.resized.bmem = regrow s.bmem (s.capacity.toNat / 8) (ceil8 s.larg0.toNat) (s.draws + 1) := rfl
@[simp] theorem State.resized_size : s.resized.size = s.larg0 := rfl
@[simp] theorem State.resized_capacity : s.resized.capacity = zextW (8 * ceil8 s.larg0.toNat) := rfl
@[simp] theorem State.resized_present : s.resized.present = s.present := rfl
@[simp] theorem State.resized_gen : s.resized.gen = s.gen + 1 := rfl
@[simp] theorem State.resized_arg0 : s.resized.arg0 = s.arg0 := rfl
@[simp] theorem State.resized_arg1 : s.resized.arg1 = s.arg1 := rfl
@[simp] theorem State.resized_arg2 : s.resized.arg2 = s.arg2 := rfl
@[simp] theorem State.resized_res0 : s.resized.res0 = s.res0 := rfl
@[simp] theorem State.resized_res1 : s.resized.res1 = s.res1 := rfl
@[simp] theorem State.resized_busy : s.resized.busy = s.busy := rfl
@[simp] theorem State.resized_err : s.resized.err = s.err := rfl
@[simp] theorem State.resized_faults : s.resized.faults = s.faults := rfl
@[simp] theorem State.resized_lcmd : s.resized.lcmd = s.lcmd := rfl
@[simp] theorem State.resized_larg0 : s.resized.larg0 = s.larg0 := rfl
@[simp] theorem State.resized_larg1 : s.resized.larg1 = s.larg1 := rfl
@[simp] theorem State.resized_larg2 : s.resized.larg2 = s.larg2 := rfl
@[simp] theorem State.resized_xmem : s.resized.xmem = s.xmem := rfl
@[simp] theorem State.resized_platform : s.resized.platform = s.platform := rfl
@[simp] theorem State.resized_turns : s.resized.turns = s.turns := rfl
@[simp] theorem State.resized_hostData : s.resized.hostData = s.hostData := rfl
@[simp] theorem State.resized_allocAnswers :
    s.resized.allocAnswers = if s.platform.maxBytes < ceil8 s.larg0.toNat then s.allocAnswers else s.allocAnswers.tail := rfl
@[simp] theorem State.resized_raced : s.resized.raced = s.raced := rfl
@[simp] theorem State.resized_draws : s.resized.draws = s.draws + 1 + ceil8 s.larg0.toNat := rfl

end Sys2Proof.Machine
end

