-- ==== Sys2Proof/Laws/Ops.lean ====
section
/-! SUPPORT. One lemma per shared operation that says once everything it can do. -/

namespace Sys2Proof.Machine

/-- The FAULTS bit of a code is the bit of its number. -/
theorem ErrCode.faultBits_eq (e : ErrCode) : e.faultBits = stickyBit e.code.toNat := by
  cases e <;> decide

/-- Everything `raise` does. -/
theorem State.raise_failsWith (s : State) (e : ErrCode) : s.FailsWith (s.raise e) e where
  res0 := rfl
  res1 := rfl
  err := rfl
  busy := rfl
  faults := by rw [State.raise_faults, ErrCode.faultBits_eq]
  storage := ⟨rfl, rfl, rfl, rfl, rfl⟩
  xmem := fun _ => rfl
  args := ⟨rfl, rfl, rfl, rfl, rfl, rfl, rfl⟩
  environment := ⟨rfl, rfl, rfl⟩

/-- Everything a refused request does. -/
theorem State.afterRequest_raise_failsWith (s : State) (n : Nat) (e : ErrCode) :
    s.FailsWith ((s.afterRequest n).raise e) e where
  res0 := rfl
  res1 := rfl
  err := rfl
  busy := rfl
  faults := by rw [State.raise_faults, ErrCode.faultBits_eq]; rfl
  storage := ⟨rfl, rfl, rfl, rfl, rfl⟩
  xmem := fun _ => rfl
  args := ⟨rfl, rfl, rfl, rfl, rfl, rfl, rfl⟩
  environment := ⟨rfl, rfl, rfl⟩

/-- The allocator grants no more than `MAX_BYTES`. -/
theorem State.le_maxBytes_of_allocGrants {s : State} {n : Nat} (h : s.allocGrants n = true) :
    n ≤ s.platform.maxBytes := by
  unfold State.allocGrants at h
  split at h
  · cases h
  · omega

/-- `XmemAdmit` and the top of XMEM, as a statement about one address. -/
theorem State.addressRefused_iff (s : State) (a : Nat) :
    addressRefused s a ↔ 2 ^ 64 ≤ a ∨ s.admits a = false := by
  simp only [addressRefused, State.admits, List.any_eq_false, Bool.and_eq_true, decide_eq_true_eq]

/-- The whole check of 20_memory.md R58. -/
theorem State.xmemRefuses_iff (s : State) (a nb : Nat) :
    s.xmemRefuses a nb = true ↔ ∃ k < nb, addressRefused s (a + k) := by
  simp only [State.xmemRefuses, Bool.and_eq_true, Bool.or_eq_true, decide_eq_true_eq, List.any_eq_true,
    List.mem_range, Bool.not_eq_true', State.addressRefused_iff]
  constructor
  · rintro ⟨hn, h | ⟨k, hk, h⟩⟩
    · exact ⟨nb - 1, by omega, .inl (by omega)⟩
    · exact ⟨k, hk, .inr h⟩
  · rintro ⟨k, hk, h | h⟩
    · exact ⟨by omega, .inl (by omega)⟩
    · exact ⟨by omega, .inr ⟨k, hk, h⟩⟩

/-- Everything the codec's checks can answer. -/
theorem State.codecError_cases (s : State) :
    (s.present = false ∧ s.codecError = some .state) ∨
    (s.present = true ∧ s.capacity.toNat < s.larg0.toNat + s.larg2.toNat ∧ s.codecError = some .precond) ∨
    (s.present = true ∧ s.larg0.toNat + s.larg2.toNat ≤ s.capacity.toNat ∧
      (∃ k < ceil8 s.larg2.toNat, addressRefused s (s.larg1.toNat + k)) ∧ s.codecError = some .xfault) ∨
    (s.present = true ∧ s.larg0.toNat + s.larg2.toNat ≤ s.capacity.toNat ∧
      (¬∃ k < ceil8 s.larg2.toNat, addressRefused s (s.larg1.toNat + k)) ∧ s.codecError = none) := by
  rw [← State.xmemRefuses_iff]
  unfold State.codecError
  cases hp : s.present
  · simp
  · by_cases hb : s.capacity.toNat < s.larg0.toNat + s.larg2.toNat
    · simp [hb]
    · cases hx : s.xmemRefuses s.larg1.toNat (ceil8 s.larg2.toNat) <;> simp [hb] <;> omega

theorem State.mem_olderValues {s : State} {a : Nat} {v : Byte} : v ∈ s.olderValues a ↔ (a, v) ∈ s.raced := by
  simp [State.olderValues]

/-- The controller reads a value that the byte has held while the command was pending. -/
theorem State.sampleXmem_held (s : State) (d a : Nat) : s.HeldValue a (s.sampleXmem d a) := by
  unfold State.sampleXmem
  split
  · exact .inl rfl
  · rename_i hne
    set older := s.olderValues a with ho
    have hlt : Config.raceChoice d % (older.length + 1) < (Memory.read s.xmem a :: older).length := by
      simpa using Nat.mod_lt _ (Nat.succ_pos _)
    rw [List.getD_eq_getElem?_getD, List.getElem?_eq_getElem hlt, Option.getD_some]
    rcases List.mem_cons.1 (List.getElem_mem hlt) with h | h
    · exact .inl h
    · exact .inr (State.mem_olderValues.1 h)

/-- With no race, the controller reads the byte. -/
theorem State.sampleXmem_of_not_raced {s : State} {a : Nat} (h : s.olderValues a = []) (d : Nat) :
    s.sampleXmem d a = Memory.read s.xmem a := by
  simp [State.sampleXmem, h]

@[simp] theorem State.sampleBytes_length (s : State) (a nb : Nat) : (s.sampleBytes a nb).length = nb := by
  simp [State.sampleBytes]

theorem State.bufByte_sampleBytes (s : State) (a : Nat) {nb k : Nat} (h : k < nb) :
    bufByte (s.sampleBytes a nb) k = s.sampleXmem (s.draws + k) (a + k) := by
  simp [State.sampleBytes, bufByte, List.getD_eq_getElem?_getD, h]

@[simp] theorem State.readBytes_length (s : State) : s.readBytes.length = ceil8 s.larg2.toNat := by
  simp [State.readBytes]

theorem State.bufByte_readBytes (s : State) {k : Nat} (h : k < ceil8 s.larg2.toNat) :
    bufByte s.readBytes k = s.orMerged k (s.sampleXmem (s.draws + k) (s.larg1.toNat + k)) := by
  rw [State.readBytes, bufByte_mapBytesFrom _ _ (by simpa using h), State.bufByte_sampleBytes _ _ h]

/-- Every bit of a merged destination byte (43_bulk_codec.md R162). -/
theorem State.orMerged_getLsbD (s : State) (k : Nat) (old : Byte) {j : Nat} (hj : j < 8) :
    (s.orMerged k old).getLsbD j
      = (old.getLsbD j || (decide (8 * k + j < s.larg2.toNat) && bufBit s.bmem (s.larg0.toNat + (8 * k + j)))) := by
  rw [State.orMerged, BitVec.getLsbD_or, byteOfBits_getLsbD _ hj]

/-- Everything a controller's turn can do. -/
theorem controllerTurn_cases (s : State) :
    (s.busy = false ∧ controllerTurn s = .next s) ∨
    (s.busy = true ∧ (∃ r, decode s.lcmd = .error r) ∧ controllerTurn s = .next (s.raise .illegal)) ∨
    (s.busy = true ∧ ∃ i, decode s.lcmd = .ok i ∧ controllerTurn s = exec i s) := by
  unfold controllerTurn
  cases hb : s.busy
  · simp
  · cases hd : decode s.lcmd with
    | ok i => simp
    | error r => simp

/-- Everything a step can do. -/
theorem step_cases (s : State) :
    (s.ControllerNext ∧ step s = controllerTurn s.popTurn) ∨
    (∃ e rest, s.turns = .host e :: rest ∧ step s = .next (s.popTurn.hostEvent e)) ∨
    (∃ rest, s.turns = .reset :: rest ∧ step s = .next s.popTurn.platformReset) := by
  unfold step
  match h : s.turns with
  | [] =>
    refine .inl ⟨.inl (by simp [h]), ?_⟩
    have : s.popTurn = s := by simp only [State.popTurn, h, List.tail_nil]; rw [← h]
    rw [this]
  | .controller :: rest => exact .inl ⟨.inr (by simp [h]), rfl⟩
  | .host e :: rest => exact .inr (.inl ⟨e, rest, rfl, rfl⟩)
  | .reset :: rest => exact .inr (.inr ⟨rest, rfl, rfl⟩)

end Sys2Proof.Machine
end

