-- ==== Sys2Proof/Laws/HostPort.lean ====
section
/-! SUPPORT. The register window and XMEM as the hosts see them: what each operation of the host port can answer. -/

namespace Sys2Proof.Machine

/-- The offset of a register, 10_state.md R30. -/
def WindowReg.offset : WindowReg → Nat
  | .cmd => 0x00
  | .arg0 => 0x08
  | .arg1 => 0x10
  | .arg2 => 0x18
  | .res0 => 0x20
  | .res1 => 0x28
  | .status => 0x30
  | .faults => 0x38
  | .size => 0x40
  | .capacity => 0x48
  | .gen => 0x50

theorem WindowReg.offset_lt (r : WindowReg) : r.offset < 0x80 := by
  cases r <;> decide

theorem windowReg_offset (r : WindowReg) : windowReg r.offset = some r := by
  cases r <;> rfl

theorem windowReg_eq_some {o : Nat} {r : WindowReg} (h : windowReg o = some r) : o = r.offset := by
  revert h
  unfold windowReg
  split <;> intro h <;> first | (cases h; rfl) | cases h

/-- Everything the window decodes (10_state.md R30, R31). -/
theorem State.accessedReg_eq_some {s : State} {addr : Nat} {w : AccessWidth} {r : WindowReg} :
    s.accessedReg addr w = some r ↔ addr = s.platform.base + r.offset ∧ w = r.width := by
  unfold State.accessedReg
  constructor
  · intro h
    cases hw : s.inWindow addr with
    | false => rw [hw] at h; cases h
    | true =>
      rw [hw, if_pos rfl, Option.filter_eq_some_iff] at h
      simp only [State.inWindow, Bool.and_eq_true, decide_eq_true_eq] at hw
      have ho := windowReg_eq_some h.1
      have hd := of_decide_eq_true h.2
      exact ⟨by omega, hd.symm⟩
  · rintro ⟨rfl, rfl⟩
    have hw : s.inWindow (s.platform.base + r.offset) = true := by
      simp only [State.inWindow, Bool.and_eq_true, decide_eq_true_eq]
      have := r.offset_lt
      omega
    rw [hw, if_pos rfl, Option.filter_eq_some_iff, Nat.add_sub_cancel_left]
    exact ⟨windowReg_offset r, decide_eq_true rfl⟩

/-- A write at a register's offset with its width reaches the register. -/
theorem State.hostRegWrite_at (s : State) (r : WindowReg) (v : Word) :
    s.hostRegWrite (s.platform.base + r.offset) r.width v = s.writeReg r v := by
  rw [State.hostRegWrite, State.accessedReg_eq_some.2 ⟨rfl, rfl⟩]

/-- A read at a register's offset with its width answers the register's value. -/
theorem State.hostRegRead_at (s : State) (r : WindowReg) :
    s.hostRegRead (s.platform.base + r.offset) r.width = (s.answerHost (s.regValue r)).takeDraws 1 := by
  rw [State.hostRegRead, State.accessedReg_eq_some.2 ⟨rfl, rfl⟩]

/-- When a `read` is pending that will complete without an error. -/
theorem State.readPending_iff (s : State) :
    s.readPending = true ↔ s.PendingRead ∧ s.codecError = none := by
  have hd : (decode s.lcmd).toOption = some .read ↔ decode s.lcmd = .ok .read := by
    cases decode s.lcmd <;> simp [Except.toOption]
  simp only [State.readPending, State.PendingRead, Bool.and_eq_true, decide_eq_true_eq, hd]

/-- Everything a host load can find of a pending `read`. -/
theorem State.pendingReadByte_eq_some {s : State} {a : Nat} {v : Byte} (h : s.pendingReadByte a = some v) :
    s.PendingRead ∧ s.codecError = none ∧ s.larg1.toNat ≤ a ∧ a < s.larg1.toNat + ceil8 s.larg2.toNat ∧
      v = s.orMerged (a - s.larg1.toNat) (s.sampleXmem s.draws a) := by
  unfold State.pendingReadByte at h
  split at h
  · rename_i hc
    simp only [Bool.and_eq_true, decide_eq_true_eq, State.readPending_iff] at hc
    exact ⟨hc.1.1.1, hc.1.1.2, hc.1.2, hc.2, (Option.some.inj h).symm⟩
  · cases h

/-- A `read` that passes its checks runs past the top of XMEM with no byte. -/
theorem State.readRange_lt {s : State} (h : s.codecError = none) :
    ceil8 s.larg2.toNat = 0 ∨ s.larg1.toNat + ceil8 s.larg2.toNat ≤ 2 ^ 64 := by
  rcases s.codecError_cases with ⟨_, hc⟩ | ⟨_, _, hc⟩ | ⟨_, _, _, hc⟩ | ⟨_, _, hn, _⟩
  · rw [h] at hc; cases hc
  · rw [h] at hc; cases hc
  · rw [h] at hc; cases hc
  · rcases Nat.eq_zero_or_pos (ceil8 s.larg2.toNat) with hz | hpos
    · exact .inl hz
    · refine .inr (Nat.le_of_not_lt fun hlt => hn ⟨ceil8 s.larg2.toNat - 1, by omega, .inl (by omega)⟩)

/-- The codec's checks all pass exactly if none of the conditions of 60_exceptions.md R207 fails. -/
theorem State.codecError_eq_none_iff (s : State) :
    s.codecError = none ↔ ¬presenceFails .read s ∧ ¬boundsFail .read s ∧ ¬xmemFails .read s := by
  simp only [presenceFails, createsBuffer, boundsFail, xmemFails]
  rcases s.codecError_cases with ⟨hp, hc⟩ | ⟨hp, hb, hc⟩ | ⟨hp, hb, hx, hc⟩ | ⟨hp, hb, hx, hc⟩
  · simp [hc, hp]
  · simp [hc, hb]
  · simp [hc, hx]
  · simp [hc, hp, hx]
    omega

/-- A reset leaves XMEM alone unless a `read` that passes its checks is pending (70_reset_and_hazards.md R230). -/
theorem State.resetXmem_of_not_readPending {s : State} (h : s.readPending = false) : s.resetXmem = s.xmem := by
  rw [State.resetXmem, h, if_neg Bool.false_ne_true]

/-- A host load gives the byte unless a `read` that passes its checks is pending (20_memory.md R62, R63(b)). -/
theorem State.hostXmemRead_of_not_readPending {s : State} (h : s.readPending = false) (a : Word) :
    s.hostXmemRead a = s.answerHost ((Memory.read s.xmem a.toNat).setWidth 64) := by
  rw [State.hostXmemRead, State.pendingReadByte, h]
  rfl

/-- No `read` is pending that will complete, if one of its checks fails (60_exceptions.md R207). -/
theorem State.readPending_eq_false_of_fails {s : State}
    (h : presenceFails .read s ∨ boundsFail .read s ∨ xmemFails .read s) : s.readPending = false := by
  rw [Bool.eq_false_iff, Ne, State.readPending_iff, State.codecError_eq_none_iff]
  rintro ⟨-, hp, hb, hx⟩
  exact h.elim hp (Or.elim · hb hx)

/-- Every XMEM byte after a host store, whether or not a command is pending. -/
theorem State.read_hostXmemWrite {s : State} (hm : Memory.wf s.xmem) (a : Word) (v : Byte) (b : Nat) :
    Memory.read (s.hostXmemWrite a v).xmem b = if b = a.toNat then v else Memory.read s.xmem b :=
  Memory.read_write hm.1 a.toNat v b

/-- What a store of the merged bytes leaves in every XMEM byte. -/
theorem State.read_storeReadBytes {s : State} (h : s.codecError = none) (hm : Memory.wf s.xmem)
    (stays : Nat → Bool) (a : Nat) :
    Memory.read (Memory.storeFrom stays s.larg1.toNat 0 s.readBytes s.xmem) a =
      if s.larg1.toNat ≤ a ∧ a < s.larg1.toNat + ceil8 s.larg2.toNat then
        (if stays (a - s.larg1.toNat) then Memory.read s.xmem a
          else s.orMerged (a - s.larg1.toNat) (s.sampleXmem (s.draws + (a - s.larg1.toNat)) a))
      else Memory.read s.xmem a := by
  rcases State.readRange_lt h with hz | hle
  · have hnil : s.readBytes = [] := List.eq_nil_of_length_eq_zero (by simp [hz])
    rw [hnil, if_neg (by omega)]
    rfl
  · rw [Memory.read_storeFrom _ _ _ _ _ hm (by simpa using hle), State.readBytes_length, Nat.add_zero, Nat.sub_zero]
    by_cases hin : s.larg1.toNat ≤ a ∧ a < s.larg1.toNat + ceil8 s.larg2.toNat
    · have hk : a - s.larg1.toNat < ceil8 s.larg2.toNat := by omega
      have hb := s.bufByte_readBytes hk
      rw [show s.larg1.toNat + (a - s.larg1.toNat) = a by omega] at hb
      rw [if_pos hin, if_pos hin, ← hb]
      rfl
    · rw [if_neg hin, if_neg hin]

end Sys2Proof.Machine
end

