-- ==== Sys2Proof/Laws/PerInstr.lean ====
section
/-! SUPPORT. A statement about every command as syntax, one lemma per constructor: its row of the opcode map. -/

namespace Sys2Proof.Laws.TableRow

/-- The command's row stands in the table of 30_encoding.md R73 under its mnemonic, and selects the word that the
command is encoded as. -/
def Statement (i : Sys2Proof.Instr) : Prop :=
  ⟨i.mnemonic, i.matchWord, i.maskWord⟩ ∈ Sys2Proof.opcodeRows ∧ Sys2Proof.encode i &&& i.maskWord = i.matchWord

theorem createEmpty : Statement .createEmpty := by unfold Statement; decide
theorem createSized (z : Bool) : Statement (.createSized z) := by unfold Statement; cases z <;> decide
theorem release : Statement .release := by unfold Statement; decide
theorem get : Statement .get := by unfold Statement; decide
theorem set (b : Bool) : Statement (.set b) := by unfold Statement; cases b <;> decide
theorem clearRange : Statement .clearRange := by unfold Statement; decide
theorem clearN : Statement .clearN := by unfold Statement; decide
theorem clearAll : Statement .clearAll := by unfold Statement; decide
theorem resize : Statement .resize := by unfold Statement; decide
theorem resizeZerofill : Statement .resizeZerofill := by unfold Statement; decide
theorem write : Statement .write := by unfold Statement; decide
theorem read : Statement .read := by unfold Statement; decide
theorem byteCount : Statement .byteCount := by unfold Statement; decide
theorem byteAddrOf : Statement .byteAddrOf := by unfold Statement; decide

end Sys2Proof.Laws.TableRow
end

