-- ==== Sys2Proof/Tests/Slice0.lean ====
section
/-! SUPPORT. The model's own tests: words of the spec's tables, smoke tests of the checks, one-step tests with the
results of 95_test_vectors.md, and for each statement with hypotheses a state that meets them, at the boundaries. -/

namespace Sys2Proof.Tests

open Sys2Proof.Machine

/-! ## Words of 30_encoding.md R73, written out bit by bit: RSV (23 bits), F, OPC (8 bits) -/

theorem test_decode_create_empty : decode 0b00000000000000000000000_0_00000001 = .ok .createEmpty := by decide
theorem test_decode_create_sized : decode 0b00000000000000000000000_0_00000010 = .ok (.createSized false) := by decide
theorem test_decode_create_sized_zero : decode 0b00000000000000000000000_1_00000010 = .ok (.createSized true) := by decide
theorem test_decode_release : decode 0b00000000000000000000000_0_00000011 = .ok .release := by decide
theorem test_decode_get : decode 0b00000000000000000000000_0_00000100 = .ok .get := by decide
theorem test_decode_set_0 : decode 0b00000000000000000000000_0_00000101 = .ok (.set false) := by decide
theorem test_decode_set_1 : decode 0b00000000000000000000000_1_00000101 = .ok (.set true) := by decide
theorem test_decode_clear_range : decode 0b00000000000000000000000_0_00000110 = .ok .clearRange := by decide
theorem test_decode_clear_n : decode 0b00000000000000000000000_0_00000111 = .ok .clearN := by decide
theorem test_decode_clear_all : decode 0b00000000000000000000000_0_00001000 = .ok .clearAll := by decide
theorem test_decode_resize : decode 0b00000000000000000000000_0_00001001 = .ok .resize := by decide
theorem test_decode_resize_zerofill : decode 0b00000000000000000000000_0_00001010 = .ok .resizeZerofill := by decide
theorem test_decode_write : decode 0b00000000000000000000000_0_00001011 = .ok .write := by decide
theorem test_decode_read : decode 0b00000000000000000000000_0_00001100 = .ok .read := by decide
theorem test_decode_byte_count : decode 0b00000000000000000000000_0_00001101 = .ok .byteCount := by decide
theorem test_decode_byte_addr_of : decode 0b00000000000000000000000_0_00001110 = .ok .byteAddrOf := by decide

/-- 30_encoding.md R74, R80; the words are those of 95_test_vectors.md V5.5 to V5.10 and V5.12. -/
theorem test_decode_rejects :
    decode 0x00000000 = .error .noSuchOpcode ∧ decode 0x0000000F = .error .reservedCopy ∧
    decode 0x00000101 = .error .flagNotAllowed ∧ decode 0x00000204 = .error .reservedBits ∧
    decode 0x80000005 = .error .reservedBits ∧ decode 0x00000010 = .error .noSuchOpcode ∧
    decode 0x000000FF = .error .noSuchOpcode ∧ decode 0x00000109 = .error .flagNotAllowed := by decide

theorem test_encode : encode (.set true) = 0x00000105 ∧ encode (.createSized true) = 0x00000102 ∧
    encode .byteAddrOf = 0x0000000E := by decide

theorem test_decodeTableWord : decodeTableWord 32 0x105 = some (.set true) ∧ decodeTableWord 32 0x10F = none := by decide

/-- 30_encoding.md R81: the forms of the listing. -/
theorem test_stmtText : stmtText ⟨.set true, [3]⟩ = "set 3, 1" ∧ stmtText ⟨.release, []⟩ = "release" := by decide

/-! ## Each check of WellFormed.lean refuses an ill-formed term -/

theorem test_opcode_checked : CmdFields.opcodeLegal ⟨0x0F, false, 0⟩ = false ∧ CmdFields.opcodeLegal ⟨0, false, 0⟩ = false ∧
    CmdFields.wellFormed ⟨0x0F, false, 0⟩ = false ∧ CmdFields.wellFormed ⟨0x0E, false, 0⟩ = true := by decide
theorem test_flag_checked : CmdFields.flagLegal ⟨0x04, true, 0⟩ = false ∧ CmdFields.wellFormed ⟨0x04, true, 0⟩ = false ∧
    CmdFields.wellFormed ⟨0x05, true, 0⟩ = true := by decide
theorem test_reserved_checked : CmdFields.reservedZero ⟨0x04, false, 1⟩ = false ∧
    CmdFields.wellFormed ⟨0x04, false, 1⟩ = false := by decide
theorem test_stmt_checked : Stmt.wellFormed ⟨.get, []⟩ = false ∧ Stmt.wellFormed ⟨.get, [1, 2]⟩ = false ∧
    Stmt.wellFormed ⟨.get, [1]⟩ = true := by decide
theorem test_platform_checked : Platform.wellFormed ⟨0, 0, []⟩ = false ∧ Platform.wellFormed ⟨0, 2 ^ 60, []⟩ = false ∧
    Platform.wellFormed ⟨0, 2 ^ 60 - 1, []⟩ = true := by decide

/-! ## Small states -/

/-- A platform with `MAX_BYTES = 4`; XMEM 0x100 to 0x2FF and the top byte are admitted. -/
def tiny : Platform := { base := 0x1000, maxBytes := 4, admitted := [⟨0x100, 0x2FF⟩, ⟨2 ^ 64 - 1, 2 ^ 64 - 1⟩] }

/-- No buffer; the allocator will grant the next request. -/
def absent : State := { State.reset with platform := tiny, allocAnswers := [true] }

/-- A buffer of these bytes and this `SIZE`, `GEN = 1`, and operands latched. -/
def buf (bs : List Byte) (size : Word) (a b c : Word := 0) : State :=
  { absent with
    bmem := bs
    size := size
    capacity := BitVec.ofNat 64 (8 * bs.length)
    present := true
    gen := 1
    larg0 := a
    larg1 := b
    larg2 := c }

/-- A command word is pending. -/
def pending (s : State) (w : CmdWord) : State := { s with busy := true, lcmd := w }

/-- The next state of an outcome. -/
def after : Host.Outcome State Fault Refusal → Option State
  | .next t => some t
  | .fault _ => none
  | .refused _ => none

/-- `BMEM`, `RES0` and `ERR` after an outcome. -/
def seen (o : Host.Outcome State Fault Refusal) : Option (List Byte × Word × ErrCode) :=
  (after o).map fun t => (t.bmem, t.res0, t.err)

/-- `SIZE`, `CAPACITY`, `PRESENT`, `GEN` and `FAULTS` after an outcome. -/
def books (o : Host.Outcome State Fault Refusal) : Option (Word × Word × Bool × Word × CmdWord) :=
  (after o).map fun t => (t.size, t.capacity, t.present, t.gen, t.faults)

/-- The XMEM bytes at 0x200 and 0x201 after an outcome. -/
def xmem200 (o : Host.Outcome State Fault Refusal) : Option (Byte × Byte) :=
  (after o).map fun t => (Memory.read t.xmem 0x200, Memory.read t.xmem 0x201)

/-! ## One-step tests; the expected results are those of the vectors of 95_test_vectors.md named in each -/

/-- V1.1 -/
theorem test_create_empty : seen (exec .createEmpty absent) = some ([], 0, .ok) ∧
    books (exec .createEmpty absent) = some (0, 0, true, 1, 0) := by decide
/-- V1.2 -/
theorem test_create_empty_present : seen (exec .createEmpty (buf [0x12] 8)) = some ([0x12], 0, .state) ∧
    books (exec .createEmpty (buf [0x12] 8)) = some (8, 8, true, 1, 0x08) := by decide
/-- V1.4 -/
theorem test_create_sized : seen (exec (.createSized true) { absent with larg0 := 17 }) = some ([0, 0, 0], 0, .ok) ∧
    books (exec (.createSized true) { absent with larg0 := 17 }) = some (17, 24, true, 1, 0) := by decide
/-- V1.7: no wrapped small size -/
theorem test_create_sized_huge :
    seen (exec (.createSized true) { absent with larg0 := 0xFFFFFFFFFFFFFFFF }) = some ([], 0, .oom) ∧
    books (exec (.createSized true) { absent with larg0 := 0xFFFFFFFFFFFFFFFF }) = some (0, 0, false, 0, 0) := by decide
/-- V1.8 -/
theorem test_release : seen (exec .release { buf [0x12, 0x34] 16 with gen := 5 }) = some ([], 0, .ok) ∧
    books (exec .release { buf [0x12, 0x34] 16 with gen := 5 }) = some (0, 0, false, 6, 0) := by decide
/-- V1.10 -/
theorem test_resize_shrinks : seen (exec .resize (buf [0xAB, 0xCD, 0xEF] 20 9)) = some ([0xAB, 0xCD], 0xB, .ok) ∧
    books (exec .resize (buf [0xAB, 0xCD, 0xEF] 20 9)) = some (9, 16, true, 2, 0) := by decide
/-- V1.27: `GEN` wraps; the new byte is a draw -/
theorem test_resize_grows : books (exec .resize { buf [] 0 8 with gen := 0xFFFFFFFFFFFFFFFF }) = some (8, 8, true, 0, 0) ∧
    (after (exec .resize (buf [] 0 8))).map (·.res0) = some 0xFFFFFFFFFFFFFFF8 := by decide
/-- V1.16: growth in one byte zeroes the bits 3 to 5 only -/
theorem test_resize_zerofill_in_byte :
    seen (exec .resizeZerofill (buf [0xFF] 3 6)) = some ([0xC7], 0xFFFFFFFFFFFFFFFD, .ok) := by decide
/-- V1.18, and the refusal of V1.14 -/
theorem test_resize_zerofill : seen (exec .resizeZerofill (buf [0xFF, 0xFF] 10 16)) =
      some ([0xFF, 0x03], 0xFFFFFFFFFFFFFFFA, .ok) ∧
    books (exec .resizeZerofill { buf [0xFF, 0xFF] 10 16 with allocAnswers := [false] }) = some (10, 16, true, 1, 0) := by
  decide
/-- V1.20 -/
theorem test_byte_count : seen (exec .byteCount (buf [0, 0, 0] 17)) = some ([0, 0, 0], 3, .ok) := by decide
/-- V1.24 -/
theorem test_byte_addr_of : (after (exec .byteAddrOf (buf [0, 0, 0] 17 23))).map (fun t => (t.res0, t.res1, t.err)) =
    some (2, 1, .ok) := by decide
/-- V1.25 -/
theorem test_byte_addr_of_past : (after (exec .byteAddrOf (buf [0, 0, 0] 17 24))).map (fun t => (t.res0, t.res1, t.err)) =
    some (0, 0, .precond) := by decide
/-- V2.3 -/
theorem test_get : seen (exec .get (buf [0x00, 0x80] 16 15)) = some ([0x00, 0x80], 1, .ok) := by decide
/-- V2.4: the bound is `SIZE` -/
theorem test_get_bound : seen (exec .get (buf [0x00, 0x80] 10 10)) = some ([0x00, 0x80], 0, .precond) := by decide
/-- V2.6 -/
theorem test_set : seen (exec (.set true) (buf [0, 0] 16 3)) = some ([0x08, 0x00], 0, .ok) := by decide
/-- V2.9 -/
theorem test_set_0 : seen (exec (.set false) (buf [0xFF, 0xFF] 16 15)) = some ([0xFF, 0x7F], 0, .ok) := by decide
/-- V3.1 -/
theorem test_clear_range : seen (exec .clearRange (buf [0xC8, 0x6C, 0x01] 24 4 12)) =
    some ([0x08, 0x60, 0x01], 8, .ok) := by decide
/-- V3.10 -/
theorem test_clear_range_order : seen (exec .clearRange (buf [0xFF, 0xFF, 0xFF] 24 9 8)) =
    some ([0xFF, 0xFF, 0xFF], 0, .precond) := by decide
/-- V3.13 -/
theorem test_clear_n : seen (exec .clearN (buf [0xFF, 0xFF] 16 6 4)) = some ([0x3F, 0xFC], 4, .ok) := by decide
/-- V3.16: the sum does not wrap -/
theorem test_clear_n_no_wrap : seen (exec .clearN (buf [0xFF, 0xFF] 16 0xFFFFFFFFFFFFFFFF 2)) =
    some ([0xFF, 0xFF], 0, .precond) := by decide
/-- V3.18 -/
theorem test_clear_all : seen (exec .clearAll (buf [0xFF, 0xFF] 10)) = some ([0, 0], 0xA, .ok) := by decide
/-- V4.1 -/
theorem test_write : seen (exec .write { buf [0x08, 0, 0] 24 5 0x100 12 with xmem := [(0x100, 0x66), (0x101, 0x0B)] }) =
    some ([0xC8, 0x6C, 0x01], 0xC, .ok) := by decide
/-- V4.13 and V4.14: the top byte, and past it -/
theorem test_write_top :
    seen (exec .write { buf [0, 0, 0] 24 0 0xFFFFFFFFFFFFFFFF 8 with xmem := [(0xFFFFFFFFFFFFFFFF, 0x81)] }) =
      some ([0x81, 0, 0], 8, .ok) ∧
    seen (exec .write (buf [0, 0, 0] 24 0 0xFFFFFFFFFFFFFFFF 9)) = some ([0, 0, 0], 0, .xfault) := by decide
/-- V4.19: OR-merge -/
theorem test_read_merges : xmem200 (exec .read
    { buf [0xC8, 0x6C, 0x01] 24 5 0x200 12 with xmem := [(0x200, 0x81), (0x201, 0xF0)] }) = some (0xE7, 0xFB) := by decide
/-- V4.22: the bits above `bitCount` are kept -/
theorem test_read_short : xmem200 (exec .read { buf [0x80, 0x01, 0x00] 24 7 0x200 2 with xmem := [(0x200, 0xF0)] }) =
    some (0xF3, 0) := by decide

/-- V5.7 and V5.11: an illegal word, and the placed word `set 0, 1` as the next step. -/
theorem test_step_words : seen (step (pending (buf [0x12] 8) 0x00000101)) = some ([0x12], 0, .illegal) ∧
    seen (step ((buf [0x12] 8).withFetchWord 32 0x105)) = some ([0x13], 0, .ok) := by decide
/-- V5.14: the word is dropped and FAULTS bit 6 is set. -/
theorem test_step_overrun :
    (after (step { pending (buf [0x12] 8) 0x105 with turns := [.host (.regWrite 0x1000 .w32 0x103)] })).map
      (fun t => (t.lcmd, t.busy, t.faults)) = some (0x105, true, 0x40) := by decide
/-- V6.4: `STATUS` after `get 10` with `SIZE = 10`. -/
theorem test_step_status : (after (exec .get (buf [0, 0] 10 10))).map (fun t => (t.statusWord, t.faultsWord)) =
    some (0x202, 0x04) := by decide
/-- V6.6: a write to `SIZE` is ignored. -/
theorem test_step_readonly :
    books (step { buf [0] 8 with turns := [.host (.regWrite 0x1040 .w64 0x1234)] }) = some (8, 8, true, 1, 0) := by decide
/-- 42_range_clear.md R141 with V3.9: no access at `CAPACITY`. -/
theorem test_range_clear_datapath : rangeClearDatapath [0xFF, 0xFF, 0xFF] 5 24 = [0x1F, 0, 0] := by decide
/-- 43_bulk_codec.md R161 and R163 with V4.1 and V4.18. -/
theorem test_codec_datapaths : writeDatapath [0x08, 0, 0] 5 12 [0x66, 0x0B] = [0xC8, 0x6C, 0x01] ∧
    readDatapath [0xC8, 0x6C, 0x01] 5 12 [0, 0] = [0x66, 0x0B] := by decide

/-! ## Witnesses: for each statement with hypotheses, states and operands that meet them; one conjunct for each clause,
at the boundary of its range -/

/-- The state `s` with the latches and the pending word of a command that the controller runs next. -/
def ready (s : State) (w : CmdWord) : State := { pending s w with turns := [.controller] }

/-- A buffer of three bytes, `SIZE = 20`, `CAPACITY = 24`, and two XMEM bytes. -/
def three (a b c : Word := 0) : State := { buf [0xC8, 0x6C, 0x01] 20 a b c with xmem := [(0x100, 0x66), (0x101, 0x0B)] }

/-- `three` with one host turn to come. -/
def hostNext (s : State) (e : HostEvent) : State := { s with turns := [.host e] }

theorem absent_inv : absent.Inv :=
  ⟨by decide, by decide, by decide, by decide, by decide, by decide, by decide, by decide, by decide, by decide⟩

theorem three_inv (a b c : Word) : (three a b c).Inv :=
  have h : (three 0 0 0).Inv :=
    ⟨by decide, by decide, by decide, by decide, by decide, by decide, by decide, by decide, by decide, by decide⟩
  ⟨h.1, h.2, h.3, h.4, h.5, h.6, h.7, h.8, h.9, h.10⟩

theorem two_inv : (buf [0xFF, 0xFF] 16 16 0).Inv :=
  ⟨by decide, by decide, by decide, by decide, by decide, by decide, by decide, by decide, by decide, by decide⟩

/-- A pending `read` of 9 bits to 0x200, whose first destination byte a host has overwritten. -/
def racing : State :=
  { pending (three 5 0x200 9) 0x0000000C with raced := [(0x200, 0x00)], xmem := [(0x200, 0x81)] }

theorem racing_inv : racing.Inv :=
  ⟨by decide, by decide, by decide, by decide, by decide, by decide, by decide, by decide, by decide, by decide⟩

theorem witness_MatchMaskTableDecides : decode 0x0000000E = .ok .byteAddrOf ∧ decode 0x0000000F = .error .reservedCopy := by
  decide

theorem witness_StepRunsTheDecodedCommand :
    (ready (three 3) 0x105).ControllerNext ∧ (ready (three 3) 0x105).busy = true ∧
    decode (ready (three 3) 0x105).lcmd = .ok (.set true) ∧ (pending absent 0x00000001).ControllerNext ∧
    (pending absent 0x00000001).busy = true ∧ decode (pending absent 0x00000001).lcmd = .ok .createEmpty :=
  ⟨.inr rfl, rfl, by decide, .inl rfl, rfl, by decide⟩

theorem witness_PlacedWordRunsNext : decode (BitVec.ofNat 32 (0x105 % 2 ^ 32)) = .ok (.set true) := by decide

theorem witness_IllegalWordCompletesWithIllegal :
    (ready absent 0x00000000).ControllerNext ∧ (ready absent 0x00000000).busy = true ∧
    (0x00000000 : CmdWord).toNat % 256 = 0x00 ∧ (0x0000000F : CmdWord).toNat % 256 = 0x0F ∧
    0x10 ≤ (0x00000010 : CmdWord).toNat % 256 ∧ 0x10 ≤ (0x000000FF : CmdWord).toNat % 256 ∧
    (0x00000204 : CmdWord).toNat / 512 ≠ 0 ∧ (0x80000005 : CmdWord).toNat / 512 ≠ 0 ∧
    ((0x00000101 : CmdWord).toNat / 256 % 2 = 1 ∧ (0x00000101 : CmdWord).toNat % 256 ≠ 0x02 ∧
      (0x00000101 : CmdWord).toNat % 256 ≠ 0x05) :=
  ⟨.inr rfl, rfl, by decide, by decide, by decide, by decide, by decide, by decide, by decide⟩

theorem witness_IdleControllerKeepsItsState : (three).ControllerNext ∧ (three).busy = false := ⟨.inl rfl, rfl⟩

theorem witness_CreateEmptyRule : (three).present = true ∧ absent.present = false := by decide

/-- `MAX_BYTES = 4`: 33 bits are refused, 32 bits are granted (95_test_vectors.md V1.7a, V1.7b). -/
theorem witness_CreateSizedRule :
    (three).present = true ∧ absent.present = false ∧
    { absent with larg0 := 8, allocAnswers := [false] }.allocGrants ((8 + 7) / 8) = false ∧
    { absent with larg0 := 33 }.platform.maxBytes < (33 + 7) / 8 ∧
    { absent with larg0 := 32 }.platform.wellFormed = true ∧
    { absent with larg0 := 32 }.allocGrants ((32 + 7) / 8) = true := by decide

theorem witness_ReleaseRule : absent.present = false ∧ (buf [] 0).present = true := by decide

theorem witness_ResizeRule :
    absent.present = false ∧ (three 33).present = true ∧ (three 33).allocGrants ((33 + 7) / 8) = false ∧
    (three 32).present = true ∧ (three 32).Inv ∧ (three 32).allocGrants ((32 + 7) / 8) = true :=
  ⟨by decide, by decide, by decide, by decide, three_inv _ _ _, by decide⟩

theorem witness_ResizeZerofillRule :
    absent.present = false ∧ (three 33).present = true ∧ (three 33).allocGrants ((33 + 7) / 8) = false ∧
    (three 32).present = true ∧ (three 32).Inv ∧ (three 32).allocGrants ((32 + 7) / 8) = true :=
  ⟨by decide, by decide, by decide, by decide, three_inv _ _ _, by decide⟩

/-- `MAX_BYTES = 4`: the largest grant from nothing, and from three bytes, where byte 3 is added; of 30 bits the bits 30
and 31 lie at or above the new size. -/
theorem witness_AddedBytesAreDraws :
    (absent.present = false ∧ { absent with larg0 := 32 }.allocGrants ((32 + 7) / 8) = true) ∧
    (three 30).Inv ∧ (three 30).present = true ∧ (three 30).allocGrants ((30 + 7) / 8) = true ∧
    (three 30).bmem.length ≤ 3 ∧ 3 < (30 + 7) / 8 ∧ (three 30).larg0.toNat ≤ 8 * 3 + 6 :=
  ⟨by decide, three_inv _ _ _, by decide, by decide, by decide, by decide, by decide⟩

theorem witness_ByteCountRule : absent.present = false ∧ (three).present = true := by decide

theorem witness_ByteAddrOfRule :
    absent.present = false ∧ ((three 24).present = true ∧ (three 24).capacity.toNat ≤ (three 24).larg0.toNat) ∧
    (three 23).present = true ∧ (three 23).larg0.toNat < (three 23).capacity.toNat := by decide

theorem witness_GetRule :
    absent.present = false ∧ ((three 20).present = true ∧ (three 20).size.toNat ≤ (three 20).larg0.toNat) ∧
    (three 19).present = true ∧ (three 19).larg0.toNat < (three 19).size.toNat := by decide

theorem witness_SetRule :
    absent.present = false ∧ ((three 20).present = true ∧ (three 20).size.toNat ≤ (three 20).larg0.toNat) ∧
    (three 19).present = true ∧ (three 19).Inv ∧ (three 19).larg0.toNat < (three 19).size.toNat :=
  ⟨by decide, by decide, by decide, three_inv _ _ _, by decide⟩

theorem witness_SetIsIdempotent :
    (three 3).Inv ∧ (∃ t, exec (.set true) (three 3) = .next t) ∧ bufBit (three 3).bmem (three 3).larg0.toNat = true :=
  ⟨three_inv _ _ _, ⟨_, rfl⟩, by decide⟩

theorem witness_ClearRangeRule :
    absent.present = false ∧ ((three 9 8).present = true ∧ (three 9 8).larg1.toNat < (three 9 8).larg0.toNat) ∧
    ((three 0 25).present = true ∧ (three 0 25).capacity.toNat < (three 0 25).larg1.toNat) ∧
    ((three 24 24).present = true ∧ (three 24 24).larg0.toNat ≤ (three 24 24).larg1.toNat ∧
      (three 24 24).larg1.toNat ≤ (three 24 24).capacity.toNat) := by decide

theorem witness_ClearNRule :
    absent.present = false ∧
    ((three 0xFFFFFFFFFFFFFFFF 2).present = true ∧
      (three 0xFFFFFFFFFFFFFFFF 2).capacity.toNat < 0xFFFFFFFFFFFFFFFF + 2) ∧
    (three 23 1).present = true ∧ (three 23 1).larg0.toNat + (three 23 1).larg1.toNat ≤ (three 23 1).capacity.toNat := by
  decide

theorem witness_ClearNIsClearRange :
    (24 : Word).toNat = (three 23 1).larg0.toNat + (three 23 1).larg1.toNat ∧
    (24 : Word).toNat ≤ (three 23 1).capacity.toNat ∧ ∃ t, exec .clearN (three 23 1) = .next t :=
  ⟨by decide, by decide, _, rfl⟩

theorem witness_ClearAllRule : absent.present = false ∧ (three).present = true ∧ (three).Inv :=
  ⟨by decide, by decide, three_inv _ _ _⟩

/-- The last admitted byte 0x2FF, the first refused one 0x300, the top of XMEM and past it; the last bits of the buffer. -/
theorem admission_boundaries :
    (∀ k < ((three 16 0x2FF 8).larg2.toNat + 7) / 8, ¬addressRefused (three 16 0x2FF 8) (0x2FF + k)) ∧
    (∃ k < ((three 15 0x2FF 9).larg2.toNat + 7) / 8, addressRefused (three 15 0x2FF 9) (0x2FF + k)) ∧
    (∀ k < ((three 16 0xFFFFFFFFFFFFFFFF 8).larg2.toNat + 7) / 8,
      ¬addressRefused (three 16 0xFFFFFFFFFFFFFFFF 8) (0xFFFFFFFFFFFFFFFF + k)) ∧
    (∃ k < ((three 15 0xFFFFFFFFFFFFFFFF 9).larg2.toNat + 7) / 8,
      addressRefused (three 15 0xFFFFFFFFFFFFFFFF 9) (0xFFFFFFFFFFFFFFFF + k)) := by
  unfold addressRefused
  decide

/-- `write` and `read` have the same hypotheses. -/
theorem witness_WriteRule_ReadRule :
    absent.present = false ∧
    ((three 23 0x100 2).present = true ∧
      (three 23 0x100 2).capacity.toNat < (three 23 0x100 2).larg0.toNat + (three 23 0x100 2).larg2.toNat) ∧
    ((three 15 0x2FF 9).present = true ∧
      (three 15 0x2FF 9).larg0.toNat + (three 15 0x2FF 9).larg2.toNat ≤ (three 15 0x2FF 9).capacity.toNat ∧
      ∃ k < ((three 15 0x2FF 9).larg2.toNat + 7) / 8,
        addressRefused (three 15 0x2FF 9) ((three 15 0x2FF 9).larg1.toNat + k)) ∧
    ((three 16 0x2FF 8).present = true ∧ (three 16 0x2FF 8).Inv ∧
      (three 16 0x2FF 8).larg0.toNat + (three 16 0x2FF 8).larg2.toNat ≤ (three 16 0x2FF 8).capacity.toNat ∧
      (∀ k < ((three 16 0x2FF 8).larg2.toNat + 7) / 8,
        ¬addressRefused (three 16 0x2FF 8) ((three 16 0x2FF 8).larg1.toNat + k)) ∧
      (three 16 0x2FF 8).raced = []) :=
  ⟨by decide, by decide, ⟨by decide, by decide, admission_boundaries.2.1⟩, by decide, three_inv _ _ _, by decide,
    admission_boundaries.1, rfl⟩

/-- The buffer after `write 5, 0x100, 12`, and then the state in which `read 5, 0x200, 12` runs. -/
def written (b : Word) : State :=
  { three 5 b 12 with bmem := [0xC8, 0x6C, 0x01], res0 := 12, err := .ok }

theorem written_inv (b : Word) : (written b).Inv :=
  have h := three_inv 5 b 12
  ⟨h.1, h.2, h.3, h.4, h.5, h.6, h.7, h.8, h.9, h.10⟩

theorem witness_WriteThenReadRoundTrip :
    (three 5 0x100 12).Inv ∧ (three 5 0x100 12).raced = [] ∧
    (∃ t, exec .write (three 5 0x100 12) = .next t ∧ t.err = .ok ∧
      ∀ i < 24, bufBit (written 0x200).bmem i = bufBit t.bmem i) ∧
    (written 0x200).Inv ∧ (written 0x200).raced = [] ∧ (written 0x200).larg0 = (three 5 0x100 12).larg0 ∧
    (written 0x200).larg2 = (three 5 0x100 12).larg2 ∧
    (∀ j < 12, Memory.seqBit (written 0x200).xmem (written 0x200).larg1.toNat j = false) ∧
    (∃ v, exec .read (written 0x200) = .next v ∧ v.err = .ok) :=
  ⟨three_inv _ _ _, rfl, ⟨_, rfl, by decide, by decide⟩, written_inv _, rfl, rfl, rfl, by decide, _, rfl, by decide⟩

/-- The hypotheses of RangeClearDatapathHasTheEffect, WriteDatapathHasTheEffect, ReadDatapathHasTheEffect and
CodecLoopsHaveTheEffects, in this order; the first range ends at the buffer's end. -/
theorem witness_Datapaths :
    ((5 : Nat) ≤ 24 ∧ (24 : Nat) ≤ 8 * [0xFF, 0xFF, (0xFF : Byte)].length) ∧
    ((5 : Nat) + 12 ≤ 8 * [0x08, 0, (0 : Byte)].length ∧ [0x66, (0x0B : Byte)].length = (12 + 7) / 8) ∧
    ((5 : Nat) + 12 ≤ 8 * [0xC8, 0x6C, (0x01 : Byte)].length ∧ [0, (0 : Byte)].length = (12 + 7) / 8) ∧
    (12 : Nat) ≤ 8 * [0, (0 : Byte)].length := by decide

/-- 95_test_vectors.md V5.1 to V5.3 and V1.6: each condition is the first that fails; and a command with none. -/
theorem witness_ErrorPriority :
    ((ready absent 0).ControllerNext ∧ (ready absent 0).busy = true ∧ ∃ r, decode (ready absent 0).lcmd = .error r) ∧
    presenceFails .write { absent with larg0 := 100, larg1 := 0x300, larg2 := 9 } ∧
    (¬presenceFails .write (three 20 0x300 9) ∧ boundsFail .write (three 20 0x300 9)) ∧
    (¬presenceFails .write (three 0 0x300 9) ∧ ¬boundsFail .write (three 0 0x300 9) ∧
      xmemFails .write (three 0 0x300 9)) ∧
    (¬presenceFails .resize (three 33) ∧ ¬boundsFail .resize (three 33) ∧ ¬xmemFails .resize (three 33) ∧
      allocFails .resize (three 33)) ∧
    (¬presenceFails .get (three 19) ∧ ¬boundsFail .get (three 19) ∧ ¬xmemFails .get (three 19) ∧
      ¬allocFails .get (three 19)) := by
  refine ⟨⟨.inr rfl, rfl, _, rfl⟩, ?_⟩
  unfold presenceFails boundsFail xmemFails allocFails addressRefused
  decide

theorem witness_XmemAdmissionDecides :
    (three 16 0x2FF 8).present = true ∧ (three 16 0x2FF 8).larg0.toNat + (three 16 0x2FF 8).larg2.toNat ≤
      (three 16 0x2FF 8).capacity.toNat ∧ (three 24 0xFFFFFFFFFFFFFFFF 0).larg2 = 0 := by decide

/-- `MAX_BYTES = 4`: 33 bits are past it, 32 bits are within it and the queued answer is given. -/
theorem witness_AllocatorRefusesAboveMaxBytes :
    (three 33).present = !createsBuffer .resize ∧ (three 33).platform.maxBytes < ((three 33).larg0.toNat + 7) / 8 ∧
    absent.present = !createsBuffer (.createSized true) ∧
    ((three 32).larg0.toNat + 7) / 8 ≤ (three 32).platform.maxBytes ∧ (three 32).allocAnswers = true :: [] := by decide

/-- Clause by clause: a FAULTS bit that is set; a completion; an overrun; a step of no reset; a reset. -/
theorem witness_FaultsAreSticky :
    { three with faults := 0x44 }.faultsWord.getLsbD 6 = true ∧
    { three with faults := 0x44 }.faultsWord.getLsbD 2 = true ∧
    ((ready (three 20) 0x00000004).ControllerNext ∧ (ready (three 20) 0x00000004).busy = true ∧
      ∃ t, step (ready (three 20) 0x00000004) = .next t) ∧
    (∃ t, step (hostNext (pending three 0x00000004) (.regWrite 0x1000 .w32 0)) = .next t) ∧
    (ready (three 20) 0x00000004).turns.head? ≠ some .reset ∧
    (∃ t, step { three with faults := 0x04, turns := [.reset] } = .next t) :=
  ⟨by decide, by decide, ⟨.inr rfl, rfl, _, rfl⟩, ⟨_, rfl⟩, by decide, _, rfl⟩

/-- A command that changes `ERR`, and one that changes `PRESENT`; a command that completes; a reset. -/
theorem witness_StatusLayoutAndWriters :
    (∃ t, step (ready (three 20) 0x00000004) = .next t ∧ t.err ≠ (three 20).err ∧
      (ready (three 20) 0x00000004).busy = true ∧ t.busy = false) ∧
    (∃ t, step (ready three 0x00000003) = .next t ∧ t.present ≠ (three).present) ∧
    ∃ t, step { three with turns := [.reset] } = .next t ∧ t.present ≠ (three).present :=
  ⟨⟨_, rfl, by decide, rfl, by decide⟩, ⟨_, rfl, by decide⟩, _, rfl, by decide⟩

theorem witness_GenCountsReplacements :
    (∃ t, exec .release three = .next t ∧ replacesStorage .release = true ∧ t.err = .ok) ∧
    (∃ t, step (hostNext three (.regWrite 0x1008 .w64 7)) = .next t) ∧
    ¬(hostNext three (.regWrite 0x1008 .w64 7)).busy = true ∧
    (∃ t, exec .byteAddrOf (three 23) = .next t ∧ t.err = .ok) :=
  ⟨⟨_, rfl, rfl, by decide⟩, ⟨_, rfl⟩, by decide, _, rfl, by decide⟩

/-- Each kind of event; each argument register; a command word. -/
theorem witness_HostEventsOnlyReachTheWindowAndXmem :
    (hostNext three (.regWrite 0x1018 .w64 7)).turns = [.host (.regWrite (tiny.base + 0x18) .w64 7)] ∧
    (hostNext three (.xmemWrite 0x200 7)).turns = [.host (.xmemWrite 0x200 7)] ∧
    (after (step (hostNext three (.regWrite 0x1000 .w32 3)))).map (·.lcmd) = some 3 := by decide

theorem witness_CommandsIgnoreOtherArguments :
    Instr.clearN.arity ≤ 2 ∧ Instr.get.arity ≤ 1 ∧ Instr.release.arity = 0 ∧ (∃ t, exec .clearN (three 23 1) = .next t) ∧
    (∃ t, exec .get (three 19) = .next t) ∧ ∃ t, exec .release three = .next t :=
  ⟨by decide, by decide, by decide, ⟨_, rfl⟩, ⟨_, rfl⟩, _, rfl⟩

theorem witness_StepKeepsTheInvariant : (three 19).Inv ∧ (∃ t, step (three 19) = .next t) ∧
    racing.Inv ∧ ∃ t, step racing = .next t :=
  ⟨three_inv _ _ _, ⟨_, rfl⟩, racing_inv, _, rfl⟩

theorem witness_OnlyTheCodecTouchesXmem :
    Instr.get ≠ .read ∧ Instr.get ≠ .write ∧ ∃ t, exec .get (three 19) = .next t := ⟨by decide, by decide, _, rfl⟩

theorem witness_NoStepChangesThePlatform : ∃ t, step { three with turns := [.reset] } = .next t := ⟨_, rfl⟩

theorem witness_AcceptanceLatchesTheCommand :
    (hostNext three (.regWrite (tiny.base) .w32 0x105)).busy = false ∧
    (hostNext three (.regWrite (tiny.base) .w32 0x105)).turns =
      [.host (.regWrite (hostNext three (.regWrite (tiny.base) .w32 0x105)).platform.base .w32 0x105)] := by decide

theorem witness_OverrunIsDropped :
    (hostNext (pending three 4) (.regWrite (tiny.base) .w32 0x105)).busy = true ∧
    (hostNext three (.regWrite (tiny.base) .w32 0x105)).busy = false ∧
    ∃ t, step (hostNext three (.regWrite (tiny.base) .w32 0x105)) = .next t :=
  ⟨by decide, by decide, _, rfl⟩

/-- The first reserved offset, the last byte of the window, a wrong width; a read-only register; `CMD`. -/
theorem witness_MalformedAndReadOnlyAccessesDoNothing :
    (∀ a ∈ [(0x1058, AccessWidth.w64), (0x107F, .w8), (0x1000, .w64), (0x1004, .w32)],
      tiny.base ≤ a.1 ∧ a.1 < tiny.base + 0x80 ∧
      ∀ r ∈ [(0x00, AccessWidth.w32), (0x08, .w64), (0x10, .w64), (0x18, .w64), (0x20, .w64), (0x28, .w64),
        (0x30, .w32), (0x38, .w32), (0x40, .w64), (0x48, .w64), (0x50, .w64)],
        ¬(a.1 = tiny.base + r.1 ∧ a.2 = r.2)) ∧
    0x20 ≤ 0x1020 - tiny.base ∧ (0x1000 = tiny.base) ∧
    (hostNext three (.regRead 0x1000 .w32)).turns = [.host (.regRead 0x1000 .w32)] := by decide

theorem witness_RegisterReadsReturnTheRegisters :
    (hostNext three (.regRead 0x1020 .w64)).turns = [.host (.regRead (tiny.base + 0x20) .w64)] ∧
    (hostNext three (.regRead 0x1020 .w64)).busy = false ∧
    (after (step (hostNext three (.regRead 0x1040 .w64)))).map (·.hostData) = some 20 ∧
    (after (step (hostNext three (.regRead 0x1050 .w64)))).map (·.hostData) = some 1 := by decide

/-- Each argument register, with `BUSY` 0 and with `BUSY` 1; and a command that completes. -/
theorem witness_LatchedArgumentsShieldTheCommand :
    (hostNext three (.regWrite 0x1008 .w64 7)).turns = [.host (.regWrite (tiny.base + 0x08) .w64 7)] ∧
    (hostNext (pending three 4) (.regWrite 0x1008 .w64 7)).busy = true ∧
    (after (step (hostNext (pending three 4) (.regWrite 0x1008 .w64 7)))).map (·.arg0) = some 7 ∧
    (after (step (hostNext three (.regWrite 0x1010 .w64 7)))).map (·.arg1) = some 7 ∧
    (after (step (hostNext (pending three 4) (.regWrite 0x1018 .w64 7)))).map (·.arg2) = some 7 ∧
    ∃ t, controllerTurn (pending (three 19) 0x00000004) = .next t :=
  ⟨rfl, rfl, by decide, by decide, by decide, _, rfl⟩

/-- 95_test_vectors.md V3.1 from its host actions on. -/
theorem witness_AssembledStatementRuns :
    Stmt.wellFormed ⟨.clearRange, [4, 12]⟩ = true ∧ (three).busy = false ∧
    { three with turns := hostActions tiny.base ⟨.clearRange, [4, 12]⟩ ++ [Turn.reset] }.turns =
      hostActions (three).platform.base ⟨.clearRange, [4, 12]⟩ ++ [Turn.reset] ∧
    seen (Sys2Proof.core.run 4 { three with turns := hostActions tiny.base ⟨.clearRange, [4, 12]⟩ }) =
      some ([0x08, 0x60, 0x01], 8, .ok) := by decide

/-- 20_memory.md R63(a): the value a host overwrites while a command is pending is recorded, and none otherwise. -/
theorem test_store_records_race :
    (after (step (hostNext (pending three 0x0B) (.xmemWrite 0x100 7)))).map (·.raced) = some [(0x100, 0x66)] ∧
    (after (step (hostNext three (.xmemWrite 0x100 7)))).map (·.raced) = some [] := by decide

/-- A store while a command is pending; a store and a load with none pending. -/
theorem witness_HostStoreThenLoad :
    ((hostNext racing (.xmemWrite 0x201 7)).Inv ∧ (hostNext racing (.xmemWrite 0x201 7)).busy = true ∧
      (hostNext racing (.xmemWrite 0x201 7)).turns = [.host (.xmemWrite 0x201 7)]) ∧
    { three with turns := [.host (.xmemWrite 0x200 7), .host (.xmemRead 0x200)] }.Inv ∧ (three).busy = false :=
  ⟨⟨⟨by decide, by decide, by decide, by decide, by decide, by decide, by decide, by decide, by decide, by decide⟩,
      rfl, rfl⟩,
    ⟨by decide, by decide, by decide, by decide, by decide, by decide, by decide, by decide, by decide, by decide⟩, rfl⟩

/-- The hypotheses of RacedWriteTakesHeldValues and RacedReadLeavesOneOfTwoValues: a raced byte at 0x200, and the byte
0x201 that nobody raced for. -/
theorem witness_Raced :
    racing.Inv ∧ racing.present = true ∧ racing.larg0.toNat + racing.larg2.toNat ≤ racing.capacity.toNat ∧
    (∀ k < (racing.larg2.toNat + 7) / 8, ¬addressRefused racing (racing.larg1.toNat + k)) ∧
    (racing.larg1.toNat + 0, (0x00 : Byte)) ∈ racing.raced := by
  refine ⟨racing_inv, ?_⟩
  unfold addressRefused
  decide

/-- A pending `read` that passes its checks; and one that fails each, with a load in its destination. -/
theorem witness_HostLoadSeesBeforeOrAfter :
    ((hostNext racing (.xmemRead 0x201)).turns = [.host (.xmemRead 0x201)] ∧
      (hostNext racing (.xmemRead 0x201)).PendingRead) ∧
    presenceFails .read (hostNext (pending absent 0x0000000C) (.xmemRead 0x200)) ∧
    boundsFail .read (hostNext (pending (three 23 0x200 2) 0x0000000C) (.xmemRead 0x200)) ∧
    xmemFails .read (hostNext (pending (three 15 0x2FF 9) 0x0000000C) (.xmemRead 0x2FF)) := by
  unfold State.PendingRead presenceFails boundsFail xmemFails addressRefused
  decide

theorem witness_ResetValues : { three with turns := [.reset] }.turns = [.reset] ∧
    ¬{ three with turns := [.reset] }.PendingRead := ⟨rfl, fun h => Bool.false_ne_true h.1⟩

/-- A `read` that passes its checks; and one that fails each: no buffer, one bit past `CAPACITY`, a byte not admitted. -/
theorem witness_ResetDuringReadLeavesOldOrMerged :
    ({ racing with turns := [.reset] }.Inv ∧ { racing with turns := [.reset] }.PendingRead) ∧
    (({ pending absent 0x0000000C with turns := [.reset] }.PendingRead ∧
      presenceFails .read { pending absent 0x0000000C with turns := [.reset] }) ∧
    ({ pending (three 23 0x200 2) 0x0000000C with turns := [.reset] }.PendingRead ∧
      boundsFail .read { pending (three 23 0x200 2) 0x0000000C with turns := [.reset] }) ∧
    { pending (three 15 0x2FF 9) 0x0000000C with turns := [.reset] }.PendingRead ∧
      xmemFails .read { pending (three 15 0x2FF 9) 0x0000000C with turns := [.reset] }) := by
  refine ⟨⟨⟨by decide, by decide, by decide, by decide, by decide, by decide, by decide, by decide, by decide,
    by decide⟩, rfl, by decide⟩, ?_⟩
  unfold State.PendingRead presenceFails boundsFail xmemFails addressRefused
  decide

end Sys2Proof.Tests
end

section
/-! The two ways a command ends (60_exceptions.md R201, R202), and from them that the platform stays the same
(70_reset_and_hazards.md R232). -/

namespace Sys2Proof.Machine

/-! ## How a command ends -/

/-- The state `t` ends the command pending in `s`: by a completion, or by an error completion whose code is not
`E_OK`. -/
inductive State.CommandEnds (s t : State) : Prop where
  | completes (r0 r1 : Word) (h : s.CompletesWith t r0 r1)
  | fails (e : ErrCode) (hne : e ≠ .ok) (h : s.FailsWith t e)

theorem State.CommandEnds.sameEnvironment {s t : State} (h : s.CommandEnds t) : s.SameEnvironment t := by
  cases h with
  | completes _ _ h => exact h.environment
  | fails _ _ h => exact h.environment

/-- `complete` after updates that leave `FAULTS`, the argument registers, the latches and the environment alone. -/
theorem State.complete_commandEnds {s u : State} (r0 r1 : Word) (faults : u.faults = s.faults := by rfl)
    (args : s.SameArgs u := by constructor <;> rfl) (environment : s.SameEnvironment u := by constructor <;> rfl) :
    s.CommandEnds (u.complete r0 r1) :=
  .completes r0 r1 ⟨rfl, rfl, rfl, rfl, faults, { args with }, { environment with }⟩

theorem State.raise_commandEnds (s : State) {e : ErrCode} (hne : e ≠ .ok) : s.CommandEnds (s.raise e) :=
  .fails e hne (s.raise_failsWith e)

theorem State.refusedRequest_commandEnds (s : State) (n : Nat) : s.CommandEnds ((s.afterRequest n).raise .oom) :=
  .fails .oom (by decide) (s.afterRequest_raise_failsWith n .oom)

/-- The presence check of a command that works on a buffer (60_exceptions.md R203). -/
theorem State.CommandEnds.ifPresent {s t : State} (h : s.CommandEnds t) :
    s.CommandEnds (if s.present then t else s.raise .state) := by
  split
  · exact h
  · exact s.raise_commandEnds (by decide)

/-- The presence check of a command that creates a buffer (60_exceptions.md R203). -/
theorem State.CommandEnds.ifAbsent {s t : State} (h : s.CommandEnds t) :
    s.CommandEnds (if s.present then s.raise .state else t) := by
  split
  · exact s.raise_commandEnds (by decide)
  · exact h

/-- The operand bounds (60_exceptions.md R207). -/
theorem State.CommandEnds.inBounds {s t : State} {outside : Prop} [Decidable outside] (h : s.CommandEnds t) :
    s.CommandEnds (if outside then s.raise .precond else t) := by
  split
  · exact s.raise_commandEnds (by decide)
  · exact h

/-- The allocator's answer (20_memory.md R56). -/
theorem State.CommandEnds.ifGranted {s t : State} {n : Nat} (h : s.CommandEnds t) :
    s.CommandEnds (if s.allocGrants n then t else (s.afterRequest n).raise .oom) := by
  split
  · exact h
  · exact s.refusedRequest_commandEnds n

theorem State.codecError_ne_ok {s : State} {e : ErrCode} (h : s.codecError = some e) : e ≠ .ok := by
  rintro rfl
  rcases s.codecError_cases with ⟨_, hc⟩ | ⟨_, _, hc⟩ | ⟨_, _, _, hc⟩ | ⟨_, _, _, hc⟩ <;> simp [hc] at h

theorem execWrite_commandEnds (s : State) : ∃ t, execWrite s = .next t ∧ s.CommandEnds t := by
  refine ⟨_, rfl, ?_⟩
  split
  next e he => exact s.raise_commandEnds (State.codecError_ne_ok he)
  next => exact State.complete_commandEnds _ _

theorem execRead_commandEnds (s : State) : ∃ t, execRead s = .next t ∧ s.CommandEnds t := by
  refine ⟨_, rfl, ?_⟩
  split
  next e he => exact s.raise_commandEnds (State.codecError_ne_ok he)
  next => exact State.complete_commandEnds _ _

/-- Every command answers a next state, which ends it in one of the two ways of 60_exceptions.md R201 and R202. -/
theorem exec_commandEnds (i : Instr) (s : State) : ∃ t, exec i s = .next t ∧ s.CommandEnds t := by
  cases i with
  | createEmpty => exact ⟨_, rfl, .ifAbsent (State.complete_commandEnds _ _)⟩
  | createSized z => exact ⟨_, rfl, .ifAbsent (.ifGranted (State.complete_commandEnds _ _))⟩
  | release => exact ⟨_, rfl, .ifPresent (State.complete_commandEnds _ _)⟩
  | get => exact ⟨_, rfl, .ifPresent (.inBounds (State.complete_commandEnds _ _))⟩
  | set b => exact ⟨_, rfl, .ifPresent (.inBounds (State.complete_commandEnds _ _))⟩
  | clearRange => exact ⟨_, rfl, .ifPresent (.inBounds (State.complete_commandEnds _ _))⟩
  | clearN => exact ⟨_, rfl, .ifPresent (.inBounds (State.complete_commandEnds _ _))⟩
  | clearAll => exact ⟨_, rfl, .ifPresent (State.complete_commandEnds _ _)⟩
  | resize => exact ⟨_, rfl, .ifPresent (.ifGranted (State.complete_commandEnds _ _))⟩
  | resizeZerofill => exact ⟨_, rfl, .ifPresent (.ifGranted (State.complete_commandEnds _ _))⟩
  | write => exact execWrite_commandEnds s
  | read => exact execRead_commandEnds s
  | byteCount => exact ⟨_, rfl, .ifPresent (State.complete_commandEnds _ _)⟩
  | byteAddrOf => exact ⟨_, rfl, .ifPresent (.inBounds (State.complete_commandEnds _ _))⟩

theorem commandEnds_of_exec {i : Instr} {s t : State} (h : exec i s = .next t) : s.CommandEnds t := by
  obtain ⟨u, hu, hends⟩ := exec_commandEnds i s
  cases hu.symm.trans h
  exact hends

/-! ## The platform under each agent's turn -/

theorem controllerTurn_platform {s t : State} (h : controllerTurn s = .next t) : t.platform = s.platform := by
  rcases controllerTurn_cases s with ⟨_, hidle⟩ | ⟨_, _, hillegal⟩ | ⟨_, i, _, hexec⟩
  · cases hidle.symm.trans h
    rfl
  · cases hillegal.symm.trans h
    exact State.raise_platform s .illegal
  · exact (commandEnds_of_exec (hexec.symm.trans h)).sameEnvironment.platform

/-- A write to `CMD` is dropped while a command is pending, and accepted otherwise (10_state.md R33, 60_exceptions.md
R206). -/
theorem State.writeReg_cmd (s : State) (v : Word) :
    s.writeReg .cmd v = if s.busy then s.overrun else s.acceptCommand (v.setWidth 32) := rfl

@[simp] theorem State.writeReg_platform (s : State) (r : WindowReg) (v : Word) :
    (s.writeReg r v).platform = s.platform := by
  cases r with
  | cmd =>
    rw [State.writeReg_cmd]
    split
    · exact s.overrun_platform
    · exact s.acceptCommand_platform _
  | _ => rfl

@[simp] theorem State.hostRegWrite_platform (s : State) (addr : Nat) (w : AccessWidth) (v : Word) :
    (s.hostRegWrite addr w v).platform = s.platform := by
  unfold State.hostRegWrite
  split
  · exact s.writeReg_platform _ v
  · rfl

@[simp] theorem State.hostRegRead_platform (s : State) (addr : Nat) (w : AccessWidth) :
    (s.hostRegRead addr w).platform = s.platform := by
  unfold State.hostRegRead
  split <;> rfl

@[simp] theorem State.hostXmemWrite_platform (s : State) (a : Word) (v : Byte) :
    (s.hostXmemWrite a v).platform = s.platform := rfl

@[simp] theorem State.hostXmemRead_platform (s : State) (a : Word) : (s.hostXmemRead a).platform = s.platform := by
  unfold State.hostXmemRead
  split <;> rfl

@[simp] theorem State.hostEvent_platform (s : State) (e : HostEvent) : (s.hostEvent e).platform = s.platform := by
  cases e with
  | regWrite addr w v => exact s.hostRegWrite_platform addr w v
  | regRead addr w => exact s.hostRegRead_platform addr w
  | xmemWrite a v => exact s.hostXmemWrite_platform a v
  | xmemRead a => exact s.hostXmemRead_platform a

@[simp] theorem State.platformReset_platform (s : State) : s.platformReset.platform = s.platform := rfl

/-- Settles O45, by the agent whose turn it is. -/
theorem noStepChangesThePlatform : Obligations.NoStepChangesThePlatform := by
  intro s t h
  rcases step_cases s with ⟨_, hctl⟩ | ⟨e, _, _, hhost⟩ | ⟨_, _, hreset⟩
  · exact (controllerTurn_platform (hctl.symm.trans h)).trans s.popTurn_platform
  · cases hhost.symm.trans h
    exact (s.popTurn.hostEvent_platform e).trans s.popTurn_platform
  · cases hreset.symm.trans h
    exact s.popTurn.platformReset_platform.trans s.popTurn_platform

end Sys2Proof.Machine
end

section
/-! The invariant of 10_state.md R23 under each operation of the model, under every command by what it answers, under
every host event by what it does, and so under every step. -/

namespace Sys2Proof.Machine

/-! ## The reset state -/

/-- The law of 00_scope.md R7 holds of the platform at reset. -/
theorem configPlatform_wellFormed : Config.platform.wellFormed = true := by
  have hlt := Config.maxBytesPred.isLt
  have hmax : Config.platform.maxBytes = Config.maxBytesPred.val + 1 := rfl
  simp only [Platform.wellFormed, Bool.and_eq_true, decide_eq_true_eq]
  omega

theorem State.reset_inv : State.reset.Inv where
  platformLaw := configPlatform_wellFormed
  capacityWhole := rfl
  bmemLength := rfl
  sizeLeCapacity := Nat.le_refl _
  capacityExact := rfl
  absentEmpty := fun _ => ⟨rfl, rfl, rfl⟩
  capacityGrantable := Nat.zero_le _
  faultsReserved := by decide
  xmemCanonical := ⟨List.Pairwise.nil, fun _ hc => absurd hc List.not_mem_nil⟩
  racedOnlyPending := fun _ => rfl

/-- Settles O43. -/
theorem resetHasTheInvariant : Obligations.ResetHasTheInvariant := State.reset_inv

/-! ## The invariant under each operation -/

/-- The bits `m` added to `FAULTS` are bits that exist (10_state.md R29). -/
theorem faults_or_reserved {f m : CmdWord} (hf : f &&& ~~~faultsMask = 0) (hm : m &&& ~~~faultsMask = 0) :
    (f ||| m) &&& ~~~faultsMask = 0 := by
  simp [BitVec.and_or_distrib_right, hf, hm]

theorem ErrCode.faultBits_reserved (e : ErrCode) : e.faultBits &&& ~~~faultsMask = 0 := by
  cases e <;> decide

section
variable {s : State}

theorem State.Inv.complete (h : s.Inv) (r0 r1 : Word) : (s.complete r0 r1).Inv :=
  { h with racedOnlyPending := fun _ => rfl }

theorem State.Inv.raise (h : s.Inv) (e : ErrCode) : (s.raise e).Inv :=
  { h with
    faultsReserved := faults_or_reserved h.faultsReserved e.faultBits_reserved
    racedOnlyPending := fun _ => rfl }

theorem State.Inv.afterRequest (h : s.Inv) (n : Nat) : (s.afterRequest n).Inv := { h with }

theorem State.Inv.takeDraws (h : s.Inv) (n : Nat) : (s.takeDraws n).Inv := { h with }

theorem State.Inv.popTurn (h : s.Inv) : s.popTurn.Inv := { h with }

theorem State.Inv.answerHost (h : s.Inv) (v : Word) : (s.answerHost v).Inv := { h with }

theorem State.Inv.acceptCommand (h : s.Inv) (w : CmdWord) : (s.acceptCommand w).Inv :=
  { h with racedOnlyPending := fun _ => rfl }

theorem State.Inv.overrun (h : s.Inv) : s.overrun.Inv :=
  { h with faultsReserved := faults_or_reserved h.faultsReserved (by decide) }

theorem State.Inv.withXmem (h : s.Inv) {m : Memory} (hm : Memory.wf m) : (s.withXmem m).Inv :=
  { h with xmemCanonical := hm }

theorem State.Inv.hostXmemWrite (h : s.Inv) (a : Word) (v : Byte) : (s.hostXmemWrite a v).Inv :=
  { h with
    xmemCanonical := Memory.write_wf h.xmemCanonical a.isLt
    racedOnlyPending := fun (hb : s.busy = false) => by
      simp [State.hostXmemWrite, hb, h.racedOnlyPending hb] }

theorem State.Inv.withBmem (h : s.Inv) {bs : List Byte} (hlen : bs.length = s.bmem.length) : (s.withBmem bs).Inv :=
  { h with
    bmemLength := hlen.trans h.bmemLength
    absentEmpty := fun hp => by
      obtain ⟨hsize, hcapacity, hbmem⟩ := h.absentEmpty hp
      exact ⟨hsize, hcapacity, List.eq_nil_of_length_eq_zero (by simp [hlen, hbmem])⟩ }

/-- New storage keeps the invariant when it is the exact one for its size and the allocator can grant it. -/
theorem State.Inv.replaceBuffer (h : s.Inv) {bs : List Byte} {n c : Word} {p : Bool}
    (hlen : bs.length = ceil8 n.toNat) (hc : c.toNat = 8 * ceil8 n.toNat)
    (hgrant : ceil8 n.toNat ≤ s.platform.maxBytes) (habsent : p = false → n = 0 ∧ c = 0 ∧ bs = []) :
    (s.replaceBuffer bs n c p).Inv :=
  { h with
    capacityWhole := by rw [State.replaceBuffer_capacity]; omega
    bmemLength := by rw [State.replaceBuffer_bmem, State.replaceBuffer_capacity]; omega
    sizeLeCapacity := by
      rw [State.replaceBuffer_size, State.replaceBuffer_capacity, hc, ceil8]
      omega
    capacityExact := hc
    absentEmpty := habsent
    capacityGrantable := by rw [State.replaceBuffer_capacity, State.replaceBuffer_platform]; omega }

/-- `create_empty` and `release` leave no byte (40_allocation.md R100, R102). -/
theorem State.Inv.replaceBuffer_nil (h : s.Inv) (p : Bool) : (s.replaceBuffer [] 0 0 p).Inv :=
  h.replaceBuffer rfl rfl (Nat.zero_le _) fun _ => ⟨rfl, rfl, rfl⟩

/-- The capacity of a granted request is not reduced modulo 2^64: 00_scope.md R7 bounds `MAX_BYTES`. -/
theorem State.Inv.grantedCapacity_toNat (h : s.Inv) {n : Nat} (hn : n ≤ s.platform.maxBytes) :
    (zextW (8 * n)).toNat = 8 * n := by
  have hlaw := h.platformLaw
  simp only [Platform.wellFormed, Bool.and_eq_true, decide_eq_true_eq] at hlaw
  rw [zextW, BitVec.toNat_ofNat, Nat.mod_eq_of_lt (by omega)]

theorem State.Inv.sized (h : s.Inv) (hgrant : s.allocGrants (ceil8 s.larg0.toNat) = true) (z : Bool) :
    (s.sized z).Inv :=
  have hn := State.le_maxBytes_of_allocGrants hgrant
  ((h.afterRequest _).replaceBuffer (freshBytes_length z _ _) (h.grantedCapacity_toNat hn) hn
    fun hp => absurd hp.symm Bool.false_ne_true).takeDraws _

theorem State.Inv.resized (h : s.Inv) (hp : s.present = true) (hgrant : s.allocGrants (ceil8 s.larg0.toNat) = true) :
    s.resized.Inv :=
  have hn := State.le_maxBytes_of_allocGrants hgrant
  ((h.afterRequest _).replaceBuffer (regrow_length _ _ _ _) (h.grantedCapacity_toNat hn) hn
    fun habsent => absurd (habsent.symm.trans hp) Bool.false_ne_true).takeDraws _

/-- The merged bytes of a `read` that passes its checks, or any part of them, leave XMEM canonical. -/
theorem State.storeReadBytes_wf (hok : s.codecError = none) (hm : Memory.wf s.xmem) (stays : Nat → Bool) :
    Memory.wf (Memory.storeFrom stays s.larg1.toNat 0 s.readBytes s.xmem) := by
  refine Memory.storeFrom_wf _ _ _ _ _ hm ?_
  have hlt := s.larg1.isLt
  rw [State.readBytes_length]
  rcases State.readRange_lt hok with hempty | hle <;> omega

theorem State.Inv.resetXmem_wf (h : s.Inv) : Memory.wf s.resetXmem := by
  unfold State.resetXmem
  split
  next hr => exact State.storeReadBytes_wf (s.readPending_iff.1 hr).2 h.xmemCanonical _
  next => exact h.xmemCanonical

theorem State.Inv.platformReset (h : s.Inv) : s.platformReset.Inv :=
  { State.reset_inv with
    platformLaw := h.platformLaw
    capacityGrantable := Nat.zero_le _
    xmemCanonical := h.resetXmem_wf }

end

/-! ## What a command answers -/

@[simp] theorem zeroBytes_length (bs : List Byte) (n : Nat) : (zeroBytes bs n).length = bs.length := by
  simp [zeroBytes]

@[simp] theorem zeroExposed_length (bs : List Byte) (old m : Nat) : (zeroExposed bs old m).length = bs.length := by
  unfold zeroExposed
  split <;> simp

theorem execWrite_of_codecError {s : State} {e : ErrCode} (h : s.codecError = some e) :
    execWrite s = .next (s.raise e) := by
  rw [execWrite, h]

theorem execWrite_of_checked {s : State} (h : s.codecError = none) :
    execWrite s = .next (((s.withBmem (s.writtenBmem (s.sampleBytes s.larg1.toNat (ceil8 s.larg2.toNat)))).takeDraws
      (ceil8 s.larg2.toNat)).complete (zextW s.larg2.toNat) 0) := by
  rw [execWrite, h]

theorem execRead_of_codecError {s : State} {e : ErrCode} (h : s.codecError = some e) :
    execRead s = .next (s.raise e) := by
  rw [execRead, h]

theorem execRead_of_checked {s : State} (h : s.codecError = none) :
    execRead s = .next (((s.withXmem s.readXmem).takeDraws (ceil8 s.larg2.toNat)).complete (zextW s.larg2.toNat) 0) := by
  rw [execRead, h]

/-- Everything command `i` can answer from `s`, seen from the buffer: an error completion, with or without a refused
request, or a completion after an update that keeps the invariant and counts in `GEN` exactly if the command replaces
the storage (10_state.md R27). -/
inductive State.CommandAnswers (i : Instr) (s : State) : State → Prop where
  | fails (e : ErrCode) (hne : e ≠ .ok) : CommandAnswers i s (s.raise e)
  | refused (n : Nat) : CommandAnswers i s ((s.afterRequest n).raise .oom)
  | succeeds {u : State} (r0 r1 : Word) (hgen : u.gen = if replacesStorage i then s.gen + 1 else s.gen)
      (hinv : s.Inv → u.Inv) : CommandAnswers i s (u.complete r0 r1)

section
variable {i : Instr} {s t : State}

/-- The presence check of a command that works on a buffer (60_exceptions.md R203). -/
theorem State.CommandAnswers.ifPresent (h : s.present = true → s.CommandAnswers i t) :
    s.CommandAnswers i (if s.present then t else s.raise .state) := by
  split
  next hp => exact h hp
  next => exact .fails .state (by decide)

/-- The presence check of a command that creates a buffer (60_exceptions.md R203). -/
theorem State.CommandAnswers.ifAbsent (h : s.CommandAnswers i t) :
    s.CommandAnswers i (if s.present then s.raise .state else t) := by
  split
  · exact .fails .state (by decide)
  · exact h

/-- The operand bounds (60_exceptions.md R207). -/
theorem State.CommandAnswers.inBounds {outside : Prop} [Decidable outside] (h : s.CommandAnswers i t) :
    s.CommandAnswers i (if outside then s.raise .precond else t) := by
  split
  · exact .fails .precond (by decide)
  · exact h

/-- The allocator's answer (20_memory.md R56). -/
theorem State.CommandAnswers.ifGranted {n : Nat} (h : s.allocGrants n = true → s.CommandAnswers i t) :
    s.CommandAnswers i (if s.allocGrants n then t else (s.afterRequest n).raise .oom) := by
  split
  next hgrant => exact h hgrant
  next => exact .refused n

end

/-- A `write` changes bits of the buffer, never its length. -/
theorem execWrite_answers (s : State) : ∃ t, execWrite s = .next t ∧ s.CommandAnswers .write t := by
  cases hc : s.codecError with
  | some e => exact ⟨_, execWrite_of_codecError hc, .fails e (State.codecError_ne_ok hc)⟩
  | none =>
    exact ⟨_, execWrite_of_checked hc,
      .succeeds _ _ rfl fun h => (h.withBmem (rewriteBits_length _ _ _ _)).takeDraws _⟩

/-- A `read` that passes its checks stores below 2^64. -/
theorem execRead_answers (s : State) : ∃ t, execRead s = .next t ∧ s.CommandAnswers .read t := by
  cases hc : s.codecError with
  | some e => exact ⟨_, execRead_of_codecError hc, .fails e (State.codecError_ne_ok hc)⟩
  | none =>
    exact ⟨_, execRead_of_checked hc,
      .succeeds _ _ rfl fun h => (h.withXmem (State.storeReadBytes_wf hc h.xmemCanonical _)).takeDraws _⟩

theorem exec_answers (i : Instr) (s : State) : ∃ t, exec i s = .next t ∧ s.CommandAnswers i t := by
  cases i with
  | createEmpty => exact ⟨_, rfl, .ifAbsent (.succeeds _ _ rfl fun h => h.replaceBuffer_nil true)⟩
  | createSized z =>
    exact ⟨_, rfl, .ifAbsent (.ifGranted fun hgrant => .succeeds _ _ rfl fun h => h.sized hgrant z)⟩
  | release => exact ⟨_, rfl, .ifPresent fun _ => .succeeds _ _ rfl fun h => h.replaceBuffer_nil false⟩
  | get => exact ⟨_, rfl, .ifPresent fun _ => .inBounds (.succeeds _ _ rfl id)⟩
  | set b =>
    exact ⟨_, rfl, .ifPresent fun _ => .inBounds (.succeeds _ _ rfl fun h => h.withBmem (setBufBit_length _ _ _))⟩
  | clearRange =>
    exact ⟨_, rfl, .ifPresent fun _ => .inBounds (.succeeds _ _ rfl fun h => h.withBmem (clearBits_length _ _ _))⟩
  | clearN =>
    exact ⟨_, rfl, .ifPresent fun _ => .inBounds (.succeeds _ _ rfl fun h => h.withBmem (clearBits_length _ _ _))⟩
  | clearAll => exact ⟨_, rfl, .ifPresent fun _ => .succeeds _ _ rfl fun h => h.withBmem (zeroBytes_length _ _)⟩
  | resize =>
    exact ⟨_, rfl, .ifPresent fun hp => .ifGranted fun hgrant => .succeeds _ _ rfl fun h => h.resized hp hgrant⟩
  | resizeZerofill =>
    exact ⟨_, rfl, .ifPresent fun hp => .ifGranted fun hgrant =>
      .succeeds _ _ rfl fun h => (h.resized hp hgrant).withBmem (zeroExposed_length _ _ _)⟩
  | write => exact execWrite_answers s
  | read => exact execRead_answers s
  | byteCount => exact ⟨_, rfl, .ifPresent fun _ => .succeeds _ _ rfl id⟩
  | byteAddrOf => exact ⟨_, rfl, .ifPresent fun _ => .inBounds (.succeeds _ _ rfl id)⟩

theorem State.CommandAnswers.inv {i : Instr} {s t : State} (h : s.CommandAnswers i t) (hs : s.Inv) : t.Inv := by
  cases h with
  | fails e _ => exact hs.raise e
  | refused n => exact (hs.afterRequest n).raise .oom
  | succeeds r0 r1 _ hinv => exact (hinv hs).complete r0 r1

/-- `GEN` counts the successful replacements (10_state.md R27). -/
theorem State.CommandAnswers.gen {i : Instr} {s t : State} (h : s.CommandAnswers i t) :
    t.gen = if replacesStorage i = true ∧ t.err = .ok then s.gen + 1 else s.gen := by
  cases h with
  | fails e hne => simp [hne]
  | refused n => simp
  | succeeds r0 r1 hgen _ => simp [hgen]

/-! ## What a host event does -/

/-- Everything a host event can make of `s` (10_state.md R30 to R33, 20_memory.md R62, 60_exceptions.md R206). -/
inductive State.HostEffect (s : State) : HostEvent → State → Prop where
  | accepts (v : Word) (hidle : s.busy = false) :
      HostEffect s (.regWrite s.platform.base .w32 v) (s.acceptCommand (v.setWidth 32))
  | overruns (v : Word) (hbusy : s.busy = true) : HostEffect s (.regWrite s.platform.base .w32 v) s.overrun
  | arg0 (v : Word) : HostEffect s (.regWrite (s.platform.base + 0x08) .w64 v) { s with arg0 := v }
  | arg1 (v : Word) : HostEffect s (.regWrite (s.platform.base + 0x10) .w64 v) { s with arg1 := v }
  | arg2 (v : Word) : HostEffect s (.regWrite (s.platform.base + 0x18) .w64 v) { s with arg2 := v }
  | ignored (addr : Nat) (w : AccessWidth) (v : Word) : HostEffect s (.regWrite addr w v) s
  | stores (a : Word) (v : Byte) : HostEffect s (.xmemWrite a v) (s.hostXmemWrite a v)
  | answers (e : HostEvent) (v : Word) (n : Nat) : HostEffect s e ((s.answerHost v).takeDraws n)

theorem State.writeReg_effect (s : State) (r : WindowReg) (v : Word) :
    s.HostEffect (.regWrite (s.platform.base + r.offset) r.width v) (s.writeReg r v) := by
  cases r with
  | cmd =>
    rw [State.writeReg_cmd]
    split
    next hb => exact .overruns v hb
    next hb => exact .accepts v (Bool.eq_false_of_not_eq_true hb)
  | arg0 => exact .arg0 v
  | arg1 => exact .arg1 v
  | arg2 => exact .arg2 v
  | _ => exact .ignored _ _ v

theorem State.hostRegWrite_effect (s : State) (addr : Nat) (w : AccessWidth) (v : Word) :
    s.HostEffect (.regWrite addr w v) (s.hostRegWrite addr w v) := by
  cases hr : s.accessedReg addr w with
  | none =>
    rw [State.hostRegWrite, hr]
    exact .ignored addr w v
  | some r =>
    obtain ⟨rfl, rfl⟩ := State.accessedReg_eq_some.1 hr
    rw [State.hostRegWrite_at]
    exact s.writeReg_effect r v

/-- A register read answers a value and may take draws; it does nothing else. -/
theorem State.hostRegRead_eq (s : State) (addr : Nat) (w : AccessWidth) :
    ∃ v n, s.hostRegRead addr w = (s.answerHost v).takeDraws n := by
  unfold State.hostRegRead
  split
  next r _ => exact ⟨s.regValue r, 1, rfl⟩
  next => exact ⟨0, 0, rfl⟩

/-- A host load answers a value and may take draws; it does nothing else. -/
theorem State.hostXmemRead_eq (s : State) (a : Word) :
    ∃ v n, s.hostXmemRead a = (s.answerHost v).takeDraws n := by
  unfold State.hostXmemRead
  split
  next => exact ⟨_, 1, rfl⟩
  next => exact ⟨(Memory.read s.xmem a.toNat).setWidth 64, 0, rfl⟩

theorem State.hostEvent_effect (s : State) (e : HostEvent) : s.HostEffect e (s.hostEvent e) := by
  cases e with
  | regWrite addr w v => exact s.hostRegWrite_effect addr w v
  | xmemWrite a v => exact .stores a v
  | regRead addr w =>
    obtain ⟨v, n, hread⟩ := s.hostRegRead_eq addr w
    rw [State.hostEvent, hread]
    exact .answers _ v n
  | xmemRead a =>
    obtain ⟨v, n, hread⟩ := s.hostXmemRead_eq a
    rw [State.hostEvent, hread]
    exact .answers _ v n

theorem State.HostEffect.inv {s t : State} {e : HostEvent} (h : s.HostEffect e t) (hs : s.Inv) : t.Inv := by
  cases h with
  | accepts v _ => exact hs.acceptCommand _
  | overruns => exact hs.overrun
  | arg0 => exact { hs with }
  | arg1 => exact { hs with }
  | arg2 => exact { hs with }
  | ignored => exact hs
  | stores a v => exact hs.hostXmemWrite a v
  | answers _ v n => exact (hs.answerHost v).takeDraws n

/-! ## Every step -/

theorem controllerTurn_inv {s t : State} (hs : s.Inv) (h : controllerTurn s = .next t) : t.Inv := by
  rcases controllerTurn_cases s with ⟨_, hidle⟩ | ⟨_, _, hillegal⟩ | ⟨_, i, _, hexec⟩
  · cases hidle.symm.trans h
    exact hs
  · cases hillegal.symm.trans h
    exact hs.raise .illegal
  · obtain ⟨u, hu, hanswers⟩ := exec_answers i s
    cases (hexec.trans hu).symm.trans h
    exact hanswers.inv hs

/-- Settles O44, by the agent whose turn it is: a command by what it answers, a host event by what it does. -/
theorem stepKeepsTheInvariant : Obligations.StepKeepsTheInvariant := by
  intro s t hs h
  rcases step_cases s with ⟨_, hctl⟩ | ⟨e, _, _, hhost⟩ | ⟨_, _, hreset⟩
  · exact controllerTurn_inv hs.popTurn (hctl.symm.trans h)
  · cases hhost.symm.trans h
    exact (s.popTurn.hostEvent_effect e).inv hs.popTurn
  · cases hreset.symm.trans h
    exact hs.popTurn.platformReset

end Sys2Proof.Machine
end

section
/-! The registers of 10_state.md under every step: what ends a command, what a host event leaves unchanged, and what
reset gives. -/

namespace Sys2Proof.Machine

/-! ## Whose turn it is -/

/-- A turn of a host or a reset is not the controller's (log 2). -/
theorem State.not_controllerNext {s : State} {u : Turn} {rest : List Turn} (h : s.turns = u :: rest)
    (hu : u ≠ .controller) : ¬s.ControllerNext := by
  simp [State.ControllerNext, h, hu]

theorem step_of_controllerNext {s : State} (h : s.ControllerNext) : step s = controllerTurn s.popTurn := by
  rcases step_cases s with ⟨_, hctl⟩ | ⟨e, rest, hturns, _⟩ | ⟨rest, hturns, _⟩
  · exact hctl
  · exact absurd h (State.not_controllerNext hturns Turn.noConfusion)
  · exact absurd h (State.not_controllerNext hturns Turn.noConfusion)

theorem step_of_host {s : State} {e : HostEvent} {rest : List Turn} (h : s.turns = .host e :: rest) :
    step s = .next (s.popTurn.hostEvent e) := by
  rw [step, h]

theorem step_of_reset {s : State} {rest : List Turn} (h : s.turns = .reset :: rest) :
    step s = .next s.popTurn.platformReset := by
  rw [step, h]

theorem State.popTurn_of_turns {s : State} {u : Turn} {rest : List Turn} (h : s.turns = u :: rest) :
    s.popTurn = { s with turns := rest } := by
  rw [State.popTurn, h, List.tail_cons]

theorem State.popTurn_turns_of {s : State} {u : Turn} {rest : List Turn} (h : s.turns = u :: rest) :
    s.popTurn.turns = rest := by
  rw [State.popTurn_turns, h, List.tail_cons]

theorem State.head?_reset_iff {s : State} : s.turns.head? = some .reset ↔ ∃ rest, s.turns = .reset :: rest :=
  List.head?_eq_some_iff

/-- A host write at a register's offset with its width (10_state.md R31). -/
theorem step_of_regWrite {s : State} (r : WindowReg) {v : Word} {rest : List Turn}
    (h : s.turns = .host (.regWrite (s.platform.base + r.offset) r.width v) :: rest) :
    step s = .next (s.popTurn.writeReg r v) := by
  rw [step_of_host h]
  exact congrArg _ (s.popTurn.hostRegWrite_at r v)

theorem controllerTurn_of_idle {s : State} (h : s.busy = false) : controllerTurn s = .next s := by
  rw [controllerTurn, h, if_neg Bool.false_ne_true]

theorem controllerTurn_of_decode {s : State} {i : Instr} (hb : s.busy = true) (hd : decode s.lcmd = .ok i) :
    controllerTurn s = exec i s := by
  rw [controllerTurn, if_pos hb, hd]

theorem controllerTurn_of_reject {s : State} {r : DecodeReject} (hb : s.busy = true) (hd : decode s.lcmd = .error r) :
    controllerTurn s = .next (s.raise .illegal) := by
  rw [controllerTurn, if_pos hb, hd]

/-- A pending command ends in the controller's turn, also where its word is illegal (60_exceptions.md R204). -/
theorem controllerTurn_commandEnds {s t : State} (hb : s.busy = true) (h : controllerTurn s = .next t) :
    s.CommandEnds t := by
  rcases controllerTurn_cases s with ⟨hidle, _⟩ | ⟨_, _, hillegal⟩ | ⟨_, i, _, hexec⟩
  · exact absurd (hidle.symm.trans hb) Bool.false_ne_true
  · cases hillegal.symm.trans h
    exact s.raise_commandEnds (by decide)
  · exact commandEnds_of_exec (hexec.symm.trans h)

/-- Everything a step can do, by the agent whose turn it is. -/
inductive StepEffect (s t : State) : Prop where
  | idles (hnext : s.ControllerNext) (hidle : s.busy = false) (ht : t = s.popTurn)
  | ends (hnext : s.ControllerNext) (hbusy : s.busy = true) (h : s.popTurn.CommandEnds t)
  | host (e : HostEvent) (rest : List Turn) (hturns : s.turns = .host e :: rest) (h : s.popTurn.HostEffect e t)
  | resets (hturns : s.turns.head? = some .reset) (ht : t = s.popTurn.platformReset)

theorem step_effect {s t : State} (h : step s = .next t) : StepEffect s t := by
  rcases step_cases s with ⟨hnext, hctl⟩ | ⟨e, rest, hturns, hhost⟩ | ⟨rest, hturns, hreset⟩
  · have hturn : controllerTurn s.popTurn = .next t := hctl.symm.trans h
    cases hb : s.busy with
    | false =>
      cases (controllerTurn_of_idle (s := s.popTurn) hb).symm.trans hturn
      exact .idles hnext hb rfl
    | true => exact .ends hnext hb (controllerTurn_commandEnds hb hturn)
  · cases hhost.symm.trans h
    exact .host e rest hturns (s.popTurn.hostEvent_effect e)
  · cases hreset.symm.trans h
    exact .resets (State.head?_reset_iff.2 ⟨rest, hturns⟩) rfl

/-! ## What a host event leaves unchanged -/

/-- What no host event changes (10_state.md R20 to R28, R32). -/
structure State.HostFrame (s t : State) : Prop where
  storage : s.SameStorage t
  res0 : t.res0 = s.res0
  res1 : t.res1 = s.res1
  err : t.err = s.err
  platform : t.platform = s.platform
  turns : t.turns = s.turns
  allocAnswers : t.allocAnswers = s.allocAnswers

namespace State.HostEffect

variable {s t : State} {e : HostEvent}

theorem frame (h : s.HostEffect e t) : s.HostFrame t := by
  cases h with
  | _ => exact ⟨⟨rfl, rfl, rfl, rfl, rfl⟩, rfl, rfl, rfl, rfl, rfl, rfl⟩

theorem xmem (h : s.HostEffect e t) (hstore : ∀ a v, e ≠ .xmemWrite a v) : t.xmem = s.xmem := by
  cases h with
  | stores a v => exact absurd rfl (hstore a v)
  | _ => rfl

theorem arg0_eq (h : s.HostEffect e t) :
    t.arg0 = s.arg0 ∨ ∃ v, e = .regWrite (s.platform.base + 0x08) .w64 v ∧ t.arg0 = v := by
  cases h with
  | arg0 v => exact .inr ⟨v, rfl, rfl⟩
  | _ => exact .inl rfl

theorem arg1_eq (h : s.HostEffect e t) :
    t.arg1 = s.arg1 ∨ ∃ v, e = .regWrite (s.platform.base + 0x10) .w64 v ∧ t.arg1 = v := by
  cases h with
  | arg1 v => exact .inr ⟨v, rfl, rfl⟩
  | _ => exact .inl rfl

theorem arg2_eq (h : s.HostEffect e t) :
    t.arg2 = s.arg2 ∨ ∃ v, e = .regWrite (s.platform.base + 0x18) .w64 v ∧ t.arg2 = v := by
  cases h with
  | arg2 v => exact .inr ⟨v, rfl, rfl⟩
  | _ => exact .inl rfl

/-- Only an accepted `CMD` write reaches the latches and `BUSY` (10_state.md R33). -/
theorem latches (h : s.HostEffect e t) :
    (t.lcmd = s.lcmd ∧ t.larg0 = s.larg0 ∧ t.larg1 = s.larg1 ∧ t.larg2 = s.larg2 ∧ t.busy = s.busy) ∨
      ∃ v, e = .regWrite s.platform.base .w32 v ∧ s.busy = false := by
  cases h with
  | accepts v hidle => exact .inr ⟨v, rfl, hidle⟩
  | _ => exact .inl ⟨rfl, rfl, rfl, rfl, rfl⟩

/-- Only an overrun reaches `FAULTS` (60_exceptions.md R206). -/
theorem faults (h : s.HostEffect e t) :
    t.faults = s.faults ∨
      ∃ v, e = .regWrite s.platform.base .w32 v ∧ s.busy = true ∧ t.faults = s.faults ||| overrunBit := by
  cases h with
  | overruns v hbusy => exact .inr ⟨v, rfl, hbusy, rfl⟩
  | _ => exact .inl rfl

/-- Only a store and an accepted `CMD` write reach the record of raced bytes (log 8). -/
theorem raced (h : s.HostEffect e t) :
    t.raced = s.raced ∨ (∃ a v, e = .xmemWrite a v) ∨
      ∃ v, e = .regWrite s.platform.base .w32 v ∧ s.busy = false ∧ t.raced = [] := by
  cases h with
  | accepts v hidle => exact .inr (.inr ⟨v, rfl, hidle, rfl⟩)
  | stores a v => exact .inr (.inl ⟨a, v, rfl⟩)
  | _ => exact .inl rfl

end State.HostEffect

/-- Settles O40, from what each kind of host event does. -/
theorem hostEventsOnlyReachTheWindowAndXmem : Obligations.HostEventsOnlyReachTheWindowAndXmem := by
  intro s e rest hturns
  have h := s.popTurn.hostEvent_effect e
  obtain ⟨hstorage, hres0, hres1, herr, hplatform, hlist, halloc⟩ := h.frame
  exact ⟨_, step_of_host hturns, { hstorage with }, hres0, hres1, herr, hplatform,
    hlist.trans (State.popTurn_turns_of hturns), h.xmem, h.arg0_eq, h.arg1_eq, h.arg2_eq, h.latches, h.faults, halloc,
    h.raced⟩

/-! ## FAULTS -/

theorem faultsMask_getLsbD (k : Nat) : faultsMask.getLsbD k = decide (2 ≤ k ∧ k ≤ 6) := by
  have low : ∀ k : Fin 32, faultsMask.getLsbD k = decide (2 ≤ k.val ∧ k.val ≤ 6) := by decide
  by_cases hk : k < 32
  · exact low ⟨k, hk⟩
  · rw [BitVec.getLsbD_of_ge _ _ (Nat.le_of_not_lt hk), eq_comm, decide_eq_false_iff_not]
    omega

theorem State.faultsWord_getLsbD (s : State) (k : Nat) :
    s.faultsWord.getLsbD k = (s.faults.getLsbD k && decide (2 ≤ k ∧ k ≤ 6)) := by
  rw [State.faultsWord, BitVec.getLsbD_and, faultsMask_getLsbD]

/-- A command that ends adds the bit of its code, which is none for `E_OK` (10_state.md R29). -/
theorem State.CommandEnds.faults {s t : State} (h : s.CommandEnds t) :
    t.faults = s.faults ||| stickyBit t.err.code.toNat := by
  cases h with
  | completes _ _ h =>
    have hnone : stickyBit ErrCode.ok.code.toNat = 0#32 := rfl
    rw [h.faults, h.err, hnone, BitVec.or_zero]
  | fails e _ h => rw [h.faults, h.err]

/-- A step that is no reset adds bits to `FAULTS` and clears none. -/
theorem StepEffect.faults_or {s t : State} (h : StepEffect s t) (hreset : s.turns.head? ≠ some .reset) :
    ∃ m, t.faults = s.faults ||| m := by
  cases h with
  | idles _ _ ht => exact ⟨0#32, by rw [ht, BitVec.or_zero, State.popTurn_faults]⟩
  | ends _ _ h => exact ⟨_, h.faults⟩
  | host e rest _ h =>
    rcases h.faults with hsame | ⟨_, _, _, hover⟩
    · exact ⟨0#32, by rw [hsame, BitVec.or_zero, State.popTurn_faults]⟩
    · exact ⟨_, hover⟩
  | resets hturns _ => exact absurd hturns hreset

/-- Settles O37: the mask for the layout, and from what a step does that bits are only added. -/
theorem faultsAreSticky : Obligations.FaultsAreSticky := by
  refine ⟨fun s k hk => ?_, fun s k hlo hhi => ?_, fun s t hnext hbusy h => ?_, fun s t v rest hbusy hturns h => ?_,
    fun s t hreset h k hk => ?_, fun s t hreset h => ?_⟩
  · rw [State.faultsWord_getLsbD, Bool.and_eq_true, decide_eq_true_eq] at hk
    exact hk.2
  · simp [State.faultsWord_getLsbD, hlo, hhi]
  · exact (controllerTurn_commandEnds (s := s.popTurn) hbusy ((step_of_controllerNext hnext).symm.trans h)).faults
  · have hover : s.popTurn.writeReg .cmd v = s.popTurn.overrun := if_pos hbusy
    cases (step_of_regWrite .cmd hturns).symm.trans h
    rw [hover]
    rfl
  · obtain ⟨m, hm⟩ := (step_effect h).faults_or hreset
    rw [hm, BitVec.getLsbD_or, hk, Bool.true_or]
  · obtain ⟨rest, hturns⟩ := State.head?_reset_iff.1 hreset
    cases (step_of_reset hturns).symm.trans h
    rfl

/-! ## STATUS -/

/-- The fields of `STATUS` as a word (10_state.md R28). -/
def statusPattern (busy present : Bool) (code : BitVec 4) : CmdWord :=
  (BitVec.ofBool busy).setWidth 32 ||| (BitVec.ofBool present).setWidth 32 <<< 1 ||| code.setWidth 32 <<< 8

theorem State.statusWord_eq (s : State) : s.statusWord = statusPattern s.busy s.present s.err.code := rfl

theorem statusPattern_fields : ∀ (busy present : Bool) (code : BitVec 4),
    (statusPattern busy present code).getLsbD 0 = busy ∧ (statusPattern busy present code).getLsbD 1 = present ∧
    (statusPattern busy present code).extractLsb' 8 4 = code ∧
    (statusPattern busy present code).extractLsb' 2 6 = 0 ∧
    (statusPattern busy present code).extractLsb' 12 20 = 0 := by decide

theorem statusPattern_toNat : ∀ (busy present : Bool) (code : BitVec 4),
    (statusPattern busy present code).toNat = busy.toNat + 2 * present.toNat + 256 * code.toNat := by decide

theorem State.CommandEnds.busy {s t : State} (h : s.CommandEnds t) : t.busy = false := by
  cases h with
  | completes _ _ h => exact h.busy
  | fails _ _ h => exact h.busy

/-- `ERR` and `PRESENT` change only when a command completes, and at reset (10_state.md R28). -/
theorem StepEffect.err_present {s t : State} (h : StepEffect s t) (hne : t.err ≠ s.err ∨ t.present ≠ s.present) :
    (s.ControllerNext ∧ s.busy = true ∧ t.busy = false) ∨ s.turns.head? = some .reset := by
  cases h with
  | idles _ _ ht => exact absurd hne (by simp [ht])
  | ends hnext hbusy h => exact .inl ⟨hnext, hbusy, h.busy⟩
  | host e rest _ h => exact absurd hne (by simp [h.frame.err, h.frame.storage.present])
  | resets hturns _ => exact .inr hturns

/-- `BUSY` falls only in the controller's turn and at reset (10_state.md R28). -/
theorem StepEffect.busy_falls {s t : State} (h : StepEffect s t) (hs : s.busy = true) (ht : t.busy = false) :
    s.ControllerNext ∨ s.turns.head? = some .reset := by
  cases h with
  | idles hnext _ _ => exact .inl hnext
  | ends hnext _ _ => exact .inl hnext
  | host e rest _ h =>
    rcases h.latches with ⟨_, _, _, _, hsame⟩ | ⟨_, _, hidle⟩
    · simp [hs, ht] at hsame
    · simp [hs] at hidle
  | resets hturns _ => exact .inr hturns

/-- `BUSY` rises only at a `CMD` write (10_state.md R33). -/
theorem StepEffect.busy_rises {s t : State} (h : StepEffect s t) (hs : s.busy = false) (ht : t.busy = true) :
    ∃ v rest, s.turns = .host (.regWrite s.platform.base .w32 v) :: rest := by
  cases h with
  | idles _ _ heq => simp [heq, hs] at ht
  | ends _ hbusy _ => simp [hs] at hbusy
  | host e rest hturns h =>
    rcases h.latches with ⟨_, _, _, _, hsame⟩ | ⟨v, rfl, _⟩
    · simp [hs, ht] at hsame
    · exact ⟨v, rest, hturns⟩
  | resets _ heq => exact absurd ht (by rw [heq]; exact Bool.false_ne_true)

/-- An accepted `CMD` write (10_state.md R33). -/
theorem step_of_acceptedCommand {s : State} {v : Word} {rest : List Turn} (hidle : s.busy = false)
    (hturns : s.turns = .host (.regWrite s.platform.base .w32 v) :: rest) :
    step s = .next (s.popTurn.acceptCommand (v.setWidth 32)) :=
  (step_of_regWrite .cmd hturns).trans
    (congrArg _ (if_neg (show ¬s.popTurn.busy = true by simp [hidle])))

/-- Settles O38: the layout by its fields, the writers from what a step does. -/
theorem statusLayoutAndWriters : Obligations.StatusLayoutAndWriters := by
  refine ⟨fun s => ?_, fun s t h hne => (step_effect h).err_present hne,
    fun s t h hs ht => (step_effect h).busy_falls hs ht, fun s t h hnext hbusy => ?_,
    fun s t h hs => ⟨(step_effect h).busy_rises hs, ?_⟩, fun s t h hreset => ?_⟩
  · rw [State.statusWord_eq]
    exact statusPattern_fields _ _ _
  · exact (controllerTurn_commandEnds (s := s.popTurn) hbusy ((step_of_controllerNext hnext).symm.trans h)).busy
  · rintro ⟨v, rest, hturns⟩
    cases (step_of_acceptedCommand hs hturns).symm.trans h
    rfl
  · obtain ⟨rest, hturns⟩ := State.head?_reset_iff.1 hreset
    cases (step_of_reset hturns).symm.trans h
    exact ⟨rfl, rfl, rfl⟩

/-! ## GEN -/

/-- A step that is no completion and no reset leaves `GEN` (10_state.md R27). -/
theorem StepEffect.gen {s t : State} (h : StepEffect s t) (hnone : ¬(s.ControllerNext ∧ s.busy = true))
    (hreset : s.turns.head? ≠ some .reset) : t.gen = s.gen := by
  cases h with
  | idles _ _ ht => rw [ht, State.popTurn_gen]
  | ends hnext hbusy _ => exact absurd ⟨hnext, hbusy⟩ hnone
  | host e rest _ h => exact h.frame.storage.gen
  | resets hturns _ => exact absurd hturns hreset

/-- A handle that `byte_addr_of` returns carries `GEN` (40_allocation.md R106). -/
theorem execByteAddrOf_res1 {s t : State} (h : execByteAddrOf s = .next t) (hok : t.err = .ok) : t.res1 = s.gen := by
  cases h
  revert hok
  split
  · split
    · exact fun hok => ErrCode.noConfusion hok
    · exact fun _ => rfl
  · exact fun hok => ErrCode.noConfusion hok

/-- Settles O39, from what each command answers and what a step does. -/
theorem genCountsReplacements : Obligations.GenCountsReplacements := by
  refine ⟨fun i s => ?_, fun s t h => (step_effect h).gen, fun s t h => execByteAddrOf_res1 h⟩
  obtain ⟨t, hexec, hanswers⟩ := exec_answers i s
  refine ⟨t, hexec, ?_⟩
  rw [hanswers.gen, apply_ite BitVec.toNat, BitVec.toNat_add]
  rfl

/-! ## The register window -/

/-- A write that names no register, or a register from 0x20 on, has no effect (10_state.md R31). -/
theorem State.hostRegWrite_eq_self {s : State} {addr : Nat} {w : AccessWidth}
    (h : ∀ r, s.accessedReg addr w = some r → 0x20 ≤ r.offset) (v : Word) : s.hostRegWrite addr w v = s := by
  cases hr : s.accessedReg addr w with
  | none => rw [State.hostRegWrite, hr]
  | some r =>
    have hro := h r hr
    rw [State.hostRegWrite, hr]
    cases r with
    | cmd => exact absurd hro (by decide)
    | arg0 => exact absurd hro (by decide)
    | arg1 => exact absurd hro (by decide)
    | arg2 => exact absurd hro (by decide)
    | _ => rfl

theorem State.hostRegRead_of_none {s : State} {addr : Nat} {w : AccessWidth} (h : s.accessedReg addr w = none) :
    s.hostRegRead addr w = s.answerHost 0 := by
  rw [State.hostRegRead, h]

/-- A read at offset 0 gives 0, whether it is well formed or not (10_state.md R30, R31). -/
theorem State.hostRegRead_base (s : State) (w : AccessWidth) : (s.hostRegRead s.platform.base w).hostData = 0 := by
  cases hr : s.accessedReg s.platform.base w with
  | none => rw [State.hostRegRead_of_none hr, State.answerHost_hostData]
  | some r =>
    have hzero : r.offset = 0 := by
      have haddr := (State.accessedReg_eq_some.1 hr).1
      omega
    rw [State.hostRegRead, hr]
    cases r with
    | cmd => rfl
    | _ => exact absurd hzero (by decide)

/-- An access at no row of the table of 10_state.md R30 names no register. -/
theorem State.accessedReg_eq_none {s : State} {addr : Nat} {w : AccessWidth} {rows : List (Nat × AccessWidth)}
    (hrows : ∀ r : WindowReg, (r.offset, r.width) ∈ rows)
    (h : ∀ o w', (o, w') ∈ rows → ¬(addr = s.platform.base + o ∧ w = w')) : s.accessedReg addr w = none :=
  Option.eq_none_iff_forall_ne_some.2 fun r hr => h _ _ (hrows r) (State.accessedReg_eq_some.1 hr)

/-- Settles O48, from the register that an access names. -/
theorem malformedAndReadOnlyAccessesDoNothing : Obligations.MalformedAndReadOnlyAccessesDoNothing := by
  intro s addr w v rest hlo hhi
  refine ⟨fun hrows => ?_, fun hoffset hturns => ?_, fun haddr hturns => ?_⟩
  · have hnone : s.popTurn.accessedReg addr w = none :=
      State.accessedReg_eq_none (fun r => by cases r <;> decide) hrows
    refine ⟨fun hturns => ?_, fun hturns => ?_⟩
    · rw [step_of_host hturns]
      exact congrArg _ (State.hostRegWrite_eq_self (fun r hr => by simp [hnone] at hr) v)
    · rw [step_of_host hturns]
      exact congrArg _ (State.hostRegRead_of_none hnone)
  · rw [step_of_host hturns]
    refine congrArg _ (State.hostRegWrite_eq_self (fun r hr => ?_) v)
    have haddr := (State.accessedReg_eq_some.1 hr).1
    rw [State.popTurn_platform] at haddr
    omega
  · subst haddr
    exact ⟨_, step_of_host hturns, s.popTurn.hostRegRead_base w⟩

/-- While no command is pending a result register reads as it is held (10_state.md R32). -/
theorem State.resultSeen_of_idle {s : State} (h : s.busy = false) (r : Word) : s.resultSeen r = r := by
  rw [State.resultSeen, h, if_neg Bool.false_ne_true]

/-- A 32-bit register reads as the same number in the 64 bits a host gets (log 10). -/
theorem toNat_setWidth_word (w : CmdWord) : (w.setWidth 64).toNat = w.toNat := by
  rw [BitVec.toNat_setWidth, Nat.mod_eq_of_lt (Nat.lt_trans w.isLt (by decide))]

/-- Settles O49: a read answers a value and nothing else; the value is the register's at its offset. -/
theorem registerReadsReturnTheRegisters : Obligations.RegisterReadsReturnTheRegisters := by
  intro s o w rest hturns
  have value : ∀ r : WindowReg, o = r.offset ∧ w = r.width →
      (s.popTurn.hostRegRead (s.platform.base + o) w).hostData = s.popTurn.regValue r := by
    rintro r ⟨rfl, rfl⟩
    exact congrArg State.hostData (s.popTurn.hostRegRead_at r)
  have hstep : step s = .next (s.popTurn.hostRegRead (s.platform.base + o) w) := step_of_host hturns
  obtain ⟨v, n, hread⟩ := s.popTurn.hostRegRead_eq (s.platform.base + o) w
  rw [hread] at hstep value
  refine ⟨_, hstep, ⟨rfl, rfl, rfl, rfl, rfl, rfl, rfl⟩, ⟨rfl, rfl, rfl, rfl, rfl⟩, rfl, rfl, rfl, rfl, rfl, rfl, rfl,
    State.popTurn_turns_of hturns, value .arg0, value .arg1, value .arg2, ?_, ?_, ?_, ?_, value .size, value .capacity,
    value .gen⟩
  · rintro ⟨ho, hw, hidle⟩
    exact (value .res0 ⟨ho, hw⟩).trans (State.resultSeen_of_idle hidle _)
  · rintro ⟨ho, hw, hidle⟩
    exact (value .res1 ⟨ho, hw⟩).trans (State.resultSeen_of_idle hidle _)
  · intro hat
    rw [value .status hat]
    exact (toNat_setWidth_word _).trans (statusPattern_toNat _ _ _)
  · intro hat
    rw [value .faults hat]
    exact toNat_setWidth_word _

/-! ## Acceptance of a command word -/

/-- Settles O46. -/
theorem acceptanceLatchesTheCommand : Obligations.AcceptanceLatchesTheCommand := by
  intro s v rest hidle hturns
  exact ⟨_, step_of_acceptedCommand hidle hturns, BitVec.toNat_setWidth 32 v, rfl, rfl, rfl, rfl,
    ⟨rfl, rfl, rfl, rfl, rfl⟩, rfl, rfl, rfl, rfl, rfl, rfl, rfl, rfl, rfl, State.popTurn_turns_of hturns, rfl, rfl⟩

/-- After `yieldToController` the controller moves, and the turns that were listed come after it (log 2). -/
theorem State.yieldToController_next (s : State) :
    s.yieldToController.ControllerNext ∧ s.yieldToController.popTurn.turns = s.turns := by
  rw [State.popTurn_turns, State.ControllerNext, State.yieldToController_turns]
  split
  next h => simp [h]
  next => simp

/-- Settles O6. -/
theorem placedWordRunsNext : Obligations.PlacedWordRunsNext := by
  intro s w i hdecode
  obtain ⟨hnext, hturns⟩ := (s.acceptCommand (BitVec.ofNat 32 (w % 2 ^ 32))).yieldToController_next
  exact ⟨(step_of_controllerNext hnext).trans (controllerTurn_of_decode rfl hdecode), hturns, rfl, rfl, rfl,
    ⟨rfl, rfl, rfl, rfl, rfl⟩, fun _ => rfl⟩

/-! ## Reset -/

theorem State.platformReset_statusWord (s : State) : s.platformReset.statusWord = 0 :=
  show statusPattern false false 0 = 0 by decide

theorem State.platformReset_faultsWord (s : State) : s.platformReset.faultsWord = 0 :=
  show (0 : CmdWord) &&& faultsMask = 0 by decide

/-- Settles O56. -/
theorem resetValues : Obligations.ResetValues := by
  refine ⟨⟨rfl, rfl, rfl, rfl, rfl, rfl, rfl, rfl, rfl, rfl, rfl, rfl, rfl, rfl, rfl, rfl, rfl⟩,
    fun s rest hturns => ?_⟩
  refine ⟨_, step_of_reset hturns, rfl, rfl, rfl, rfl, rfl, rfl, rfl, rfl, rfl, rfl,
    s.popTurn.platformReset_statusWord, s.popTurn.platformReset_faultsWord, rfl, rfl, rfl, rfl, rfl, rfl,
    State.popTurn_turns_of hturns, fun hread => ?_⟩
  have hnone : s.popTurn.readPending = false :=
    Bool.eq_false_of_not_eq_true fun hr => hread (s.popTurn.readPending_iff.1 hr).1
  exact State.resetXmem_of_not_readPending hnone

/-! ## The argument registers -/

/-- Give `ARG0` to `ARG2` new values (10_state.md R32). -/
def State.withArgs (s : State) (x y z : Word) : State := { s with arg0 := x, arg1 := y, arg2 := z }

section
variable {x y z : Word}

/-- Two branches that both keep the argument registers apart do so together. -/
theorem State.withArgs_ite {c : Prop} [Decidable c] {t u t' u' : State} (ht : t' = t.withArgs x y z)
    (hu : u' = u.withArgs x y z) : (if c then t' else u') = (if c then t else u).withArgs x y z := by
  split <;> assumption

/-- No command reads or writes an argument register: its operands are the latches (10_state.md R33). -/
theorem exec_withArgs (i : Instr) (s : State) (x y z : Word) :
    ∃ t t', exec i s = .next t ∧ exec i (s.withArgs x y z) = .next t' ∧ t' = t.withArgs x y z := by
  cases i with
  | createEmpty => exact ⟨_, _, rfl, rfl, State.withArgs_ite rfl rfl⟩
  | createSized b => exact ⟨_, _, rfl, rfl, State.withArgs_ite rfl (State.withArgs_ite rfl rfl)⟩
  | release => exact ⟨_, _, rfl, rfl, State.withArgs_ite rfl rfl⟩
  | get => exact ⟨_, _, rfl, rfl, State.withArgs_ite (State.withArgs_ite rfl rfl) rfl⟩
  | set b => exact ⟨_, _, rfl, rfl, State.withArgs_ite (State.withArgs_ite rfl rfl) rfl⟩
  | clearRange => exact ⟨_, _, rfl, rfl, State.withArgs_ite (State.withArgs_ite rfl rfl) rfl⟩
  | clearN => exact ⟨_, _, rfl, rfl, State.withArgs_ite (State.withArgs_ite rfl rfl) rfl⟩
  | clearAll => exact ⟨_, _, rfl, rfl, State.withArgs_ite rfl rfl⟩
  | resize => exact ⟨_, _, rfl, rfl, State.withArgs_ite (State.withArgs_ite rfl rfl) rfl⟩
  | resizeZerofill => exact ⟨_, _, rfl, rfl, State.withArgs_ite (State.withArgs_ite rfl rfl) rfl⟩
  | write =>
    cases hc : s.codecError with
    | some e => exact ⟨_, _, execWrite_of_codecError hc, execWrite_of_codecError hc, rfl⟩
    | none => exact ⟨_, _, execWrite_of_checked hc, execWrite_of_checked hc, rfl⟩
  | read =>
    cases hc : s.codecError with
    | some e => exact ⟨_, _, execRead_of_codecError hc, execRead_of_codecError hc, rfl⟩
    | none => exact ⟨_, _, execRead_of_checked hc, execRead_of_checked hc, rfl⟩
  | byteCount => exact ⟨_, _, rfl, rfl, State.withArgs_ite rfl rfl⟩
  | byteAddrOf => exact ⟨_, _, rfl, rfl, State.withArgs_ite (State.withArgs_ite rfl rfl) rfl⟩

/-- The controller's turn neither reads nor writes an argument register. -/
theorem controllerTurn_withArgs {s t : State} (h : controllerTurn s = .next t) (x y z : Word) :
    controllerTurn (s.withArgs x y z) = .next (t.withArgs x y z) := by
  rcases controllerTurn_cases s with ⟨hb, hidle⟩ | ⟨hb, ⟨r, hd⟩, hillegal⟩ | ⟨hb, i, hd, hexec⟩
  · cases hidle.symm.trans h
    exact controllerTurn_of_idle hb
  · cases hillegal.symm.trans h
    exact controllerTurn_of_reject (s := s.withArgs x y z) hb hd
  · obtain ⟨u, _, hu, hargs, rfl⟩ := exec_withArgs i s x y z
    cases (hexec.trans hu).symm.trans h
    exact (controllerTurn_of_decode (s := s.withArgs x y z) hb hd).trans hargs

end

/-- The controller's turn leaves the argument registers and the latches (10_state.md R32, R33). -/
theorem controllerTurn_sameArgs {s t : State} (h : controllerTurn s = .next t) : s.SameArgs t := by
  cases hb : s.busy with
  | false =>
    cases (controllerTurn_of_idle hb).symm.trans h
    exact ⟨rfl, rfl, rfl, rfl, rfl, rfl, rfl⟩
  | true =>
    cases controllerTurn_commandEnds hb h with
    | completes _ _ h => exact h.args
    | fails _ _ h => exact h.args

/-- A write to an argument register commutes with the controller's turn (10_state.md R33). -/
theorem controllerTurn_writeArg {s t : State} {r : WindowReg} (hr : r = .arg0 ∨ r = .arg1 ∨ r = .arg2) (v : Word)
    (h : controllerTurn s = .next t) : controllerTurn (s.writeReg r v) = .next (t.writeReg r v) := by
  have hargs := controllerTurn_sameArgs h
  rcases hr with rfl | rfl | rfl
  · exact (controllerTurn_withArgs h v s.arg1 s.arg2).trans (by rw [← hargs.arg1, ← hargs.arg2]; rfl)
  · exact (controllerTurn_withArgs h s.arg0 v s.arg2).trans (by rw [← hargs.arg0, ← hargs.arg2]; rfl)
  · exact (controllerTurn_withArgs h s.arg0 s.arg1 v).trans (by rw [← hargs.arg0, ← hargs.arg1]; rfl)

/-- The same for a host write at the register's offset. -/
theorem controllerTurn_hostArgWrite {s t : State} {r : WindowReg} (hr : r = .arg0 ∨ r = .arg1 ∨ r = .arg2) (v : Word)
    (h : controllerTurn s = .next t) :
    controllerTurn (s.hostRegWrite (s.platform.base + r.offset) r.width v)
      = .next (t.hostRegWrite (s.platform.base + r.offset) r.width v) := by
  rw [State.hostRegWrite_at, ← controllerTurn_platform h, State.hostRegWrite_at]
  exact controllerTurn_writeArg hr v h

/-- Settles O50: the host's write by its register, the commutation from a command's operands being the latches. -/
theorem latchedArgumentsShieldTheCommand : Obligations.LatchedArgumentsShieldTheCommand := by
  refine ⟨fun s v rest => ⟨fun hturns => ?_, fun hturns => ?_, fun hturns => ?_⟩, ?_⟩
  · rw [step_of_regWrite .arg0 hturns, State.popTurn_of_turns hturns]
    rfl
  · rw [step_of_regWrite .arg1 hturns, State.popTurn_of_turns hturns]
    rfl
  · rw [step_of_regWrite .arg2 hturns, State.popTurn_of_turns hturns]
    rfl
  · rintro s t o v (rfl | rfl | rfl) h
    · exact controllerTurn_hostArgWrite (r := .arg0) (by simp) v h
    · exact controllerTurn_hostArgWrite (r := .arg1) (by simp) v h
    · exact controllerTurn_hostArgWrite (r := .arg2) (by simp) v h

end Sys2Proof.Machine
end

section
/-! The allocator (20_memory.md R56, R57): what the three allocating commands make of the answer to their one request,
and which draws the bytes are that they add. -/

namespace Sys2Proof.Machine

/-! ## The answer to a request -/

theorem State.allocGrants_of_maxBytes_lt {s : State} {n : Nat} (h : s.platform.maxBytes < n) :
    s.allocGrants n = false := if_pos h

/-- At most `MAX_BYTES` the answer is the one the allocator has decided (log 4). -/
theorem State.allocGrants_of_answer {s : State} {n : Nat} {answer : Bool} {rest : List Bool}
    (hn : n ≤ s.platform.maxBytes) (h : s.allocAnswers = answer :: rest) : s.allocGrants n = answer := by
  rw [State.allocGrants, if_neg (Nat.not_lt.2 hn), h, List.headD_cons]

/-- A request of at most `MAX_BYTES` uses its answer up (log 4). -/
theorem State.afterRequest_allocAnswers_of_answer {s : State} {n : Nat} {answer : Bool} {rest : List Bool}
    (hn : n ≤ s.platform.maxBytes) (h : s.allocAnswers = answer :: rest) : (s.afterRequest n).allocAnswers = rest := by
  rw [State.afterRequest_allocAnswers, if_neg (Nat.not_lt.2 hn), h, List.tail_cons]

/-! ## The commands that make a request -/

theorem execCreateSized_of_absent {s : State} (hp : s.present = false) (z : Bool) :
    execCreateSized z s = .next
      (if s.allocGrants (ceil8 s.larg0.toNat) then (s.sized z).complete 0 0
        else (s.afterRequest (ceil8 s.larg0.toNat)).raise .oom) := by
  rw [execCreateSized, hp, if_neg Bool.false_ne_true]

theorem execResize_of_present {s : State} (hp : s.present = true) :
    execResize s = .next
      (if s.allocGrants (ceil8 s.larg0.toNat) then
          s.resized.complete (twosW ((s.size.toNat : Int) - s.larg0.toNat)) 0
        else (s.afterRequest (ceil8 s.larg0.toNat)).raise .oom) := by
  rw [execResize, if_pos hp]

theorem execResizeZerofill_of_present {s : State} (hp : s.present = true) :
    execResizeZerofill s = .next
      (if s.allocGrants (ceil8 s.larg0.toNat) then
          (s.resized.withBmem (zeroExposed s.resized.bmem s.size.toNat s.larg0.toNat)).complete
            (twosW ((s.size.toNat : Int) - s.larg0.toNat)) 0
        else (s.afterRequest (ceil8 s.larg0.toNat)).raise .oom) := by
  rw [execResizeZerofill, if_pos hp]

/-- An allocating command whose presence check passes asks once for the bytes of its new size: granted, it completes
with no further request; refused, it fails. -/
theorem exec_of_request {i : Instr} {s : State} (hi : i = .resize ∨ i = .resizeZerofill ∨ ∃ z, i = .createSized z)
    (hp : s.present = !createsBuffer i) :
    ∃ (u : State) (r0 r1 : Word),
      exec i s = .next
        (if s.allocGrants (ceil8 s.larg0.toNat) then u.complete r0 r1
          else (s.afterRequest (ceil8 s.larg0.toNat)).raise .oom) ∧
      u.allocAnswers = (s.afterRequest (ceil8 s.larg0.toNat)).allocAnswers := by
  rcases hi with rfl | rfl | ⟨z, rfl⟩
  · exact ⟨_, _, _, execResize_of_present hp, rfl⟩
  · exact ⟨_, _, _, execResizeZerofill_of_present hp, rfl⟩
  · exact ⟨_, _, _, execCreateSized_of_absent hp z, rfl⟩

/-! ## The commands that make none -/

/-- A field has the same value after a check as it has in both branches. -/
theorem State.field_ite {α : Type} (f : State → α) {c : Prop} [Decidable c] {t u : State} {x : α} (ht : f t = x)
    (hu : f u = x) : f (if c then t else u) = x := by
  split <;> assumption

theorem exec_allocAnswers (i : Instr) (s : State) (hresize : i ≠ .resize) (hzerofill : i ≠ .resizeZerofill)
    (hsized : ∀ z, i ≠ .createSized z) : ∃ t, exec i s = .next t ∧ t.allocAnswers = s.allocAnswers := by
  have keeps {c : Prop} [Decidable c] {t u : State} :=
    State.field_ite State.allocAnswers (c := c) (t := t) (u := u) (x := s.allocAnswers)
  cases i with
  | createEmpty => exact ⟨_, rfl, keeps rfl rfl⟩
  | createSized z => exact absurd rfl (hsized z)
  | release => exact ⟨_, rfl, keeps rfl rfl⟩
  | get => exact ⟨_, rfl, keeps (keeps rfl rfl) rfl⟩
  | set b => exact ⟨_, rfl, keeps (keeps rfl rfl) rfl⟩
  | clearRange => exact ⟨_, rfl, keeps (keeps rfl rfl) rfl⟩
  | clearN => exact ⟨_, rfl, keeps (keeps rfl rfl) rfl⟩
  | clearAll => exact ⟨_, rfl, keeps rfl rfl⟩
  | resize => exact absurd rfl hresize
  | resizeZerofill => exact absurd rfl hzerofill
  | write =>
    cases hc : s.codecError with
    | some e => exact ⟨_, execWrite_of_codecError hc, rfl⟩
    | none => exact ⟨_, execWrite_of_checked hc, rfl⟩
  | read =>
    cases hc : s.codecError with
    | some e => exact ⟨_, execRead_of_codecError hc, rfl⟩
    | none => exact ⟨_, execRead_of_checked hc, rfl⟩
  | byteCount => exact ⟨_, rfl, keeps rfl rfl⟩
  | byteAddrOf => exact ⟨_, rfl, keeps (keeps rfl rfl) rfl⟩

/-- Settles O36: the one request of an allocating command by the answer to it, the others by what they leave. -/
theorem allocatorRefusesAboveMaxBytes : Obligations.AllocatorRefusesAboveMaxBytes := by
  refine ⟨fun i s hi hp => ?_, exec_allocAnswers⟩
  obtain ⟨u, r0, r1, hexec, hu⟩ := exec_of_request hi hp
  have hfails := s.afterRequest_raise_failsWith (ceil8 s.larg0.toNat) .oom
  refine ⟨fun hmax => ?_, fun answer rest hmax hanswer => ?_⟩
  · rw [State.allocGrants_of_maxBytes_lt (n := ceil8 s.larg0.toNat) hmax, if_neg Bool.false_ne_true] at hexec
    exact ⟨_, hexec, hfails, if_pos hmax⟩
  · have hrest := State.afterRequest_allocAnswers_of_answer (n := ceil8 s.larg0.toNat) hmax hanswer
    rw [State.allocGrants_of_answer (n := ceil8 s.larg0.toNat) hmax hanswer] at hexec
    refine ⟨_, hexec, ?_⟩
    cases answer with
    | true => exact ⟨hu.trans hrest, by simp, fun h => absurd h.symm Bool.false_ne_true⟩
    | false => exact ⟨hrest, by simp, fun _ => hfails⟩

/-! ## The bytes a command adds -/

/-- The number of the draw that byte `k` takes when a command keeps the first `old` bytes: the first draw is the
request's, and the added bytes take the next ones in order (log 5). -/
def State.addedDraw (s : State) (old k : Nat) : Nat := s.draws + 1 + (k - old)

/-- The draws of `nb` bytes lie among those that the command takes. -/
theorem State.addedDraw_range (s : State) (old : Nat) {nb k : Nat} (hk : k < nb) :
    s.draws ≤ s.addedDraw old k ∧ s.addedDraw old k < s.draws + 1 + nb := by
  rw [State.addedDraw]
  omega

theorem State.addedDraw_inj {s : State} {old k l : Nat} (hk : old ≤ k) (hl : old ≤ l)
    (h : s.addedDraw old k = s.addedDraw old l) : k = l := by
  rw [State.addedDraw, State.addedDraw] at h
  omega

/-- Every byte of a new buffer that is not zero-filled is a draw (40_allocation.md R101). -/
theorem State.bufByte_sized_added (s : State) {k : Nat} (hk : k < ceil8 s.larg0.toNat) :
    bufByte (s.sized false).bmem k = Config.undef (s.addedDraw 0 k) :=
  bufByte_freshBytes false (s.draws + 1) hk

/-- Every byte that a resize adds is a draw (40_allocation.md R103). -/
theorem State.Inv.bufByte_resized_added {s : State} (h : s.Inv) {k : Nat} (hadded : s.bmem.length ≤ k)
    (hk : k < ceil8 s.larg0.toNat) : bufByte s.resized.bmem k = Config.undef (s.addedDraw s.bmem.length k) := by
  rw [State.resized_bmem, ← h.bmemLength, bufByte_regrow _ _ hk, if_neg (Nat.not_lt.2 hadded), State.addedDraw]

/-- The zero step of 40_allocation.md R104 reaches no bit at or above the new size. -/
theorem bufBit_zeroExposed_of_ge {bs : List Byte} {old m i : Nat} (h : m ≤ i) :
    bufBit (zeroExposed bs old m) i = bufBit bs i := by
  rw [zeroExposed]
  split
  · rw [bufBit_clearBits, if_neg (by omega)]
  · rfl

/-- Bit `j` of byte `k` as a bit of the buffer (00_scope.md R8). -/
theorem bufBit_of_byte (bs : List Byte) (k : Nat) {j : Nat} (hj : j < 8) :
    bufBit bs (8 * k + j) = (bufByte bs k).getLsbD j := by
  rw [bufBit, show (8 * k + j) / 8 = k by omega, show (8 * k + j) % 8 = j by omega]

/-- Settles O58: byte `k` takes the draw `State.addedDraw` of its place. -/
theorem addedBytesAreDraws : Obligations.AddedBytesAreDraws := by
  refine ⟨fun s hp hgrant => ?_, fun s hs hp hgrant => ?_, fun s hs hp hgrant => ?_⟩
  · refine ⟨_, s.addedDraw 0, (execCreateSized_of_absent hp false).trans (congrArg _ (if_pos hgrant)),
      freshBytes_length _ _ _, fun k hk => ?_, fun k _ l _ => State.addedDraw_inj k.zero_le l.zero_le⟩
    have hnew := hk.trans_eq (freshBytes_length _ _ _)
    obtain ⟨hlo, hhi⟩ := s.addedDraw_range 0 hnew
    exact ⟨hlo, hhi, s.bufByte_sized_added hnew⟩
  · refine ⟨_, s.addedDraw s.bmem.length, (execResize_of_present hp).trans (congrArg _ (if_pos hgrant)),
      regrow_length _ _ _ _, fun k hk hadded => ?_, fun k _ l _ => State.addedDraw_inj⟩
    have hnew := hk.trans_eq (regrow_length _ _ _ _)
    obtain ⟨hlo, hhi⟩ := s.addedDraw_range s.bmem.length hnew
    exact ⟨hlo, hhi, hs.bufByte_resized_added hadded hnew⟩
  · have hlength : (zeroExposed s.resized.bmem s.size.toNat s.larg0.toNat).length = ceil8 s.larg0.toNat :=
      (zeroExposed_length _ _ _).trans (regrow_length _ _ _ _)
    refine ⟨_, s.addedDraw s.bmem.length, (execResizeZerofill_of_present hp).trans (congrArg _ (if_pos hgrant)),
      hlength, fun k hk hadded => ?_, fun k _ l _ => State.addedDraw_inj⟩
    have hnew := hk.trans_eq hlength
    obtain ⟨hlo, hhi⟩ := s.addedDraw_range s.bmem.length hnew
    refine ⟨hlo, hhi, fun j hj hsize => ?_⟩
    calc bufBit (zeroExposed s.resized.bmem s.size.toNat s.larg0.toNat) (8 * k + j)
        = bufBit s.resized.bmem (8 * k + j) := bufBit_zeroExposed_of_ge hsize
      _ = (bufByte s.resized.bmem k).getLsbD j := bufBit_of_byte _ _ hj
      _ = (Config.undef (s.addedDraw s.bmem.length k)).getLsbD j := by rw [hs.bufByte_resized_added hadded hnew]

end Sys2Proof.Machine
end

section
/-! XMEM (20_memory.md R50 to R63): who touches it, which bytes the controller may access, and what a host and a
pending command make of a byte that both of them access. -/

namespace Sys2Proof.Machine

/-- Settles O5. -/
theorem stepRunsTheDecodedCommand : Obligations.StepRunsTheDecodedCommand := fun _ _ hnext hbusy hdecode =>
  (step_of_controllerNext hnext).trans (controllerTurn_of_decode hbusy hdecode)

/-! ## Admission -/

/-- An address is admitted when it is below 2^64 and in an admitted range (20_memory.md R58). -/
theorem not_addressRefused_of_admitted {s : State} {a : Nat}
    (h : a < 2 ^ 64 ∧ ∃ r ∈ s.platform.admitted, r.lo ≤ a ∧ a ≤ r.hi) : ¬addressRefused s a := by
  obtain ⟨hlt, r, hr, hin⟩ := h
  exact fun hrefused => hrefused.elim (Nat.not_le.2 hlt) fun hnone => hnone r hr hin

theorem State.codecError_of_refused {s : State} (hp : s.present = true)
    (hb : s.larg0.toNat + s.larg2.toNat ≤ s.capacity.toNat)
    (hx : ∃ k < ceil8 s.larg2.toNat, addressRefused s (s.larg1.toNat + k)) : s.codecError = some .xfault := by
  rw [State.codecError, if_pos hp, if_neg (Nat.not_lt.2 hb), if_pos ((s.xmemRefuses_iff _ _).2 hx)]

theorem State.codecError_of_admitted {s : State} (hp : s.present = true)
    (hb : s.larg0.toNat + s.larg2.toNat ≤ s.capacity.toNat)
    (hx : ∀ k < ceil8 s.larg2.toNat, ¬addressRefused s (s.larg1.toNat + k)) : s.codecError = none := by
  have hnone : ¬s.xmemRefuses s.larg1.toNat (ceil8 s.larg2.toNat) = true := fun h => by
    obtain ⟨k, hk, hrefused⟩ := (s.xmemRefuses_iff _ _).1 h
    exact hx k hk hrefused
  rw [State.codecError, if_pos hp, if_neg (Nat.not_lt.2 hb), if_neg hnone]

section
variable {i : Instr} {s : State}

theorem exec_of_codecError (hi : i = .write ∨ i = .read) {e : ErrCode} (h : s.codecError = some e) :
    exec i s = .next (s.raise e) := by
  rcases hi with rfl | rfl
  · exact execWrite_of_codecError h
  · exact execRead_of_codecError h

/-- The codec completes when its checks pass. -/
theorem exec_of_checked (hi : i = .write ∨ i = .read) (h : s.codecError = none) :
    ∃ t, exec i s = .next t ∧ t.err = .ok := by
  rcases hi with rfl | rfl
  · exact ⟨_, execWrite_of_checked h, rfl⟩
  · exact ⟨_, execRead_of_checked h, rfl⟩

end

/-- Settles O35, by whether an address of the range is refused; with `bitCount = 0` the range is empty. -/
theorem xmemAdmissionDecides : Obligations.XmemAdmissionDecides := by
  intro i s hi hp hb
  by_cases hx : ∃ k < ceil8 s.larg2.toNat, addressRefused s (s.larg1.toNat + k)
  · have herror := State.codecError_of_refused hp hb hx
    obtain ⟨k, hk, hrefused⟩ := hx
    refine ⟨_, exec_of_codecError hi herror, fun _ => s.raise_failsWith .xfault,
      fun hall => absurd hrefused (not_addressRefused_of_admitted (hall k hk)), fun hzero => ?_⟩
    simp [hzero, ceil8] at hk
  · obtain ⟨t, hexec, hok⟩ :=
      exec_of_checked hi (State.codecError_of_admitted hp hb fun k hk hrefused => hx ⟨k, hk, hrefused⟩)
    exact ⟨t, hexec, fun hrefused => absurd hrefused hx, fun _ => hok, fun _ => hok⟩

/-! ## Who touches XMEM -/

/-- Two branches that both keep XMEM apart do so together. -/
theorem State.withXmem_ite {m : Memory} {c : Prop} [Decidable c] {t u t' u' : State} (ht : t' = t.withXmem m)
    (hu : u' = u.withXmem m) : (if c then t' else u') = (if c then t else u).withXmem m := by
  split <;> assumption

/-- No command but the codec's two depends on XMEM or changes it (20_memory.md R59). -/
theorem exec_withXmem {i : Instr} (hread : i ≠ .read) (hwrite : i ≠ .write) (s : State) (m : Memory) :
    ∃ t t', exec i s = .next t ∧ exec i (s.withXmem m) = .next t' ∧ t' = t.withXmem m := by
  cases i with
  | createEmpty => exact ⟨_, _, rfl, rfl, State.withXmem_ite rfl rfl⟩
  | createSized b => exact ⟨_, _, rfl, rfl, State.withXmem_ite rfl (State.withXmem_ite rfl rfl)⟩
  | release => exact ⟨_, _, rfl, rfl, State.withXmem_ite rfl rfl⟩
  | get => exact ⟨_, _, rfl, rfl, State.withXmem_ite (State.withXmem_ite rfl rfl) rfl⟩
  | set b => exact ⟨_, _, rfl, rfl, State.withXmem_ite (State.withXmem_ite rfl rfl) rfl⟩
  | clearRange => exact ⟨_, _, rfl, rfl, State.withXmem_ite (State.withXmem_ite rfl rfl) rfl⟩
  | clearN => exact ⟨_, _, rfl, rfl, State.withXmem_ite (State.withXmem_ite rfl rfl) rfl⟩
  | clearAll => exact ⟨_, _, rfl, rfl, State.withXmem_ite rfl rfl⟩
  | resize => exact ⟨_, _, rfl, rfl, State.withXmem_ite (State.withXmem_ite rfl rfl) rfl⟩
  | resizeZerofill => exact ⟨_, _, rfl, rfl, State.withXmem_ite (State.withXmem_ite rfl rfl) rfl⟩
  | write => exact absurd rfl hwrite
  | read => exact absurd rfl hread
  | byteCount => exact ⟨_, _, rfl, rfl, State.withXmem_ite rfl rfl⟩
  | byteAddrOf => exact ⟨_, _, rfl, rfl, State.withXmem_ite (State.withXmem_ite rfl rfl) rfl⟩

theorem execWrite_xmem (s : State) : ∃ t, execWrite s = .next t ∧ t.xmem = s.xmem := by
  cases hc : s.codecError with
  | some e => exact ⟨_, execWrite_of_codecError hc, rfl⟩
  | none => exact ⟨_, execWrite_of_checked hc, rfl⟩

/-- Settles O42. A command that gives the same next state whatever XMEM holds, with that XMEM in it, gives it with the
XMEM it started from. -/
theorem onlyTheCodecTouchesXmem : Obligations.OnlyTheCodecTouchesXmem := by
  refine ⟨fun i s hread => ?_, fun i s t m hread hwrite h => ?_⟩
  · by_cases hwrite : i = .write
    · subst hwrite
      exact execWrite_xmem s
    · obtain ⟨t, _, -, hsame, rfl⟩ := exec_withXmem hread hwrite s s.xmem
      exact ⟨t.withXmem s.xmem, hsame, rfl⟩
  · obtain ⟨u, _, hu, hm, rfl⟩ := exec_withXmem hread hwrite s m
    cases hu.symm.trans h
    exact hm

/-! ## Host stores and loads -/

/-- A byte in the 64 bits that a host gets (log 10). -/
theorem toNat_setWidth_byte (b : Byte) : (b.setWidth 64).toNat = b.toNat := by
  rw [BitVec.toNat_setWidth, Nat.mod_eq_of_lt (Nat.lt_trans b.isLt (by decide))]

/-- With no command pending a host load gives the byte (20_memory.md R62). -/
theorem State.hostXmemRead_of_idle {s : State} (h : s.busy = false) (a : Word) :
    s.hostXmemRead a = s.answerHost ((Memory.read s.xmem a.toNat).setWidth 64) :=
  State.hostXmemRead_of_not_readPending (by rw [State.readPending, h, Bool.false_and, Bool.false_and]) a

/-- Settles O52, from what a store leaves in every byte. -/
theorem hostStoreThenLoad : Obligations.HostStoreThenLoad := by
  refine ⟨fun s a v rest hs hturns => ?_, fun s a v rest hs hidle hturns => ?_⟩
  · have hread := State.read_hostXmemWrite hs.popTurn.xmemCanonical a v
    exact ⟨_, step_of_host hturns, (hread _).trans (if_pos rfl), fun b hb => (hread b).trans (if_neg hb), rfl⟩
  · have hread := State.read_hostXmemWrite hs.popTurn.xmemCanonical a v
    have hnext : (s.popTurn.hostXmemWrite a v).turns = .host (.xmemRead a) :: rest := State.popTurn_turns_of hturns
    have hload := State.hostXmemRead_of_idle (s := (s.popTurn.hostXmemWrite a v).popTurn) hidle a
    refine ⟨_, _, step_of_host hturns, (step_of_host hnext).trans (congrArg _ hload), ?_,
      fun b hb => (hread b).trans (if_neg hb)⟩
    exact (toNat_setWidth_byte _).trans (congrArg BitVec.toNat ((hread _).trans (if_pos rfl)))

/-! ## Races -/

/-- A merged destination byte has the bits that 43_bulk_codec.md R162 gives it. -/
theorem State.orMerged_mergedByte (s : State) (k : Nat) (old : Byte) : s.MergedByte k old (s.orMerged k old) :=
  fun j hj => by rw [State.orMerged_getLsbD _ _ _ hj, ← Nat.add_assoc]

/-- A command's count of bits, reduced to `W` bits, is the operand itself (00_scope.md R9). -/
theorem zextW_toNat (w : Word) : zextW w.toNat = w :=
  (BitVec.ofNat_toNat 64 w).trans (BitVec.setWidth_eq w)

/-- `write` and `read` complete with their count of bits (20_memory.md R63: with or without a race). -/
theorem State.complete_count {s u : State} (faults : u.faults = s.faults := by rfl)
    (args : s.SameArgs u := by constructor <;> rfl) (environment : s.SameEnvironment u := by constructor <;> rfl) :
    s.CompletesWith (u.complete (zextW s.larg2.toNat) 0) s.larg2 0 :=
  ⟨zextW_toNat _, rfl, rfl, rfl, faults, { args with }, { environment with }⟩

/-- A host's racing store stands only where a host has raced (20_memory.md R63(b)). -/
theorem State.raced_of_hostStoreStands {s : State} {d a : Nat} (h : s.hostStoreStands d a = true) :
    ∃ v, (a, v) ∈ s.raced := by
  rw [State.hostStoreStands, Bool.and_eq_true, Bool.not_eq_true', List.isEmpty_eq_false_iff_exists_mem] at h
  obtain ⟨⟨v, hv⟩, -⟩ := h
  exact ⟨v, State.mem_olderValues.1 hv⟩

/-- Inside the range of `write` the buffer takes the bits of the source bytes as the command has read them. -/
theorem State.Inv.bufBit_writtenBmem {s : State} (h : s.Inv)
    (hb : s.larg0.toNat + s.larg2.toNat ≤ s.capacity.toNat) (source : List Byte) {j : Nat} (hj : j < s.larg2.toNat) :
    bufBit (s.writtenBmem source) (s.larg0.toNat + j) = bufBit source j := by
  have hwhole := h.capacityWhole
  have hlength := h.bmemLength
  rw [State.writtenBmem, bufBit_rewriteBits, if_pos (by omega), Nat.add_sub_cancel_left]

/-- Outside its range `write` changes no bit. -/
theorem State.bufBit_writtenBmem_outside (s : State) (source : List Byte) {i : Nat}
    (hi : ¬(s.larg0.toNat ≤ i ∧ i < s.larg0.toNat + s.larg2.toNat)) :
    bufBit (s.writtenBmem source) i = bufBit s.bmem i := by
  rw [State.writtenBmem, bufBit_rewriteBits, if_neg fun hin => hi hin.2]

/-- Settles O53: the value of source byte `k` is the one that the command has sampled. -/
theorem racedWriteTakesHeldValues : Obligations.RacedWriteTakesHeldValues := by
  intro s hs hp hb hx
  refine ⟨_, execWrite_of_checked (State.codecError_of_admitted hp hb hx),
    State.complete_count, ⟨rfl, rfl, rfl, rfl⟩, fun _ => rfl,
    rewriteBits_length _ _ _ _, fun k hk => ⟨_, s.sampleXmem_held (s.draws + k) _, fun j hj hin => ?_⟩,
    fun i hi => s.bufBit_writtenBmem_outside _ hi⟩
  rw [State.complete_bmem, State.takeDraws_bmem, State.withBmem_bmem, Nat.add_assoc, hs.bufBit_writtenBmem hb _ hin,
    bufBit_of_byte _ _ hj, State.bufByte_sampleBytes _ _ (nb := ceil8 s.larg2.toNat) hk]

/-- Destination byte `k` after `read`: the host's value where a host's store stands, and the merged byte elsewhere. -/
theorem State.read_readXmem {s : State} (hok : s.codecError = none) (hm : Memory.wf s.xmem) {k : Nat}
    (hk : k < ceil8 s.larg2.toNat) :
    Memory.read s.readXmem (s.larg1.toNat + k) =
      if s.hostStoreStands (s.draws + k) (s.larg1.toNat + k) then Memory.read s.xmem (s.larg1.toNat + k)
      else s.orMerged k (s.sampleXmem (s.draws + k) (s.larg1.toNat + k)) := by
  rw [State.readXmem, State.read_storeReadBytes hok hm, if_pos (by omega), Nat.add_sub_cancel_left]

/-- Settles O54, by whether a host's store stands in the destination byte. -/
theorem racedReadLeavesOneOfTwoValues : Obligations.RacedReadLeavesOneOfTwoValues := by
  intro s hs hp hb hx
  have hok := State.codecError_of_admitted hp hb hx
  refine ⟨_, execRead_of_checked hok,
    State.complete_count, ⟨rfl, rfl, rfl, rfl, rfl⟩,
    fun k hk => ?_, fun a ha => (State.read_storeReadBytes hok hs.xmemCanonical _ a).trans (if_neg ha)⟩
  rw [State.complete_xmem, State.takeDraws_xmem, State.withXmem_xmem, State.read_readXmem hok hs.xmemCanonical hk]
  split
  next hstands => exact .inr ⟨State.raced_of_hostStoreStands hstands, rfl⟩
  next => exact .inl ⟨_, s.sampleXmem_held _ _, s.orMerged_mergedByte k _⟩

/-- What a host load answers: the byte, or in the destination of a pending `read` a merged one (20_memory.md R63(b)). -/
theorem State.hostXmemRead_hostData (s : State) (a : Word) :
    (s.hostXmemRead a).hostData.toNat = (Memory.read s.xmem a.toNat).toNat ∨
      ∃ v, s.pendingReadByte a.toNat = some v ∧ (s.hostXmemRead a).hostData.toNat = v.toNat := by
  unfold State.hostXmemRead
  split
  next v hv =>
    rw [State.takeDraws_hostData, State.answerHost_hostData, toNat_setWidth_byte]
    split
    · exact .inr ⟨v, hv, rfl⟩
    · exact .inl rfl
  next => exact .inl (toNat_setWidth_byte _)

theorem State.hostXmemRead_xmem (s : State) (a : Word) : (s.hostXmemRead a).xmem = s.xmem := by
  obtain ⟨v, n, h⟩ := s.hostXmemRead_eq a
  rw [h, State.takeDraws_xmem, State.answerHost_xmem]

/-- Settles O55, by what the load finds of a pending `read`. -/
theorem hostLoadSeesBeforeOrAfter : Obligations.HostLoadSeesBeforeOrAfter := by
  intro s a rest hturns
  refine ⟨_, step_of_host hturns, s.popTurn.hostXmemRead_xmem a, ?_, fun hfails => ?_⟩
  · refine (s.popTurn.hostXmemRead_hostData a).imp_right ?_
    rintro ⟨x, hx, hdata⟩
    obtain ⟨hread, -, hlo, hhi, rfl⟩ := State.pendingReadByte_eq_some hx
    exact ⟨hread, hlo, hhi, _, _, s.popTurn.sampleXmem_held _ _, s.popTurn.orMerged_mergedByte _ _, hdata⟩
  · have hload := State.hostXmemRead_of_not_readPending (s := s.popTurn) (State.readPending_eq_false_of_fails hfails) a
    exact (congrArg (fun u : State => u.hostData.toNat) hload).trans (toNat_setWidth_byte _)

end Sys2Proof.Machine
end

section
/-! The command word (30_encoding.md R70 to R74): a word is its three fields, the opcode map is inverse to the `match`
column, and each row of the match/mask table selects its own words. -/

namespace Sys2Proof

/-! ## A word is its fields -/

/-- The three fields of format `CMD32` make up the whole word (30_encoding.md R70). -/
theorem cmdFields_injective : Function.Injective cmdFields := by
  intro w w' h
  have hopc := congrArg (·.opc.toNat) h
  have hf := congrArg (·.f) h
  have hrsv := congrArg (·.rsv.toNat) h
  simp only [cmdFields_opc_toNat, cmdFields_f, cmdFields_rsv_toNat, decide_eq_decide] at hopc hf hrsv
  apply BitVec.eq_of_toNat_eq
  omega

/-- The fields of the word a statement writes to `CMD` (30_encoding.md R81). -/
theorem cmdFields_encode (i : Instr) :
    cmdFields (encode i) = ⟨i.matchWord.setWidth 8, i.flag?.getD false, 0⟩ := by
  cases i with
  | createSized f => cases f <;> decide
  | set f => cases f <;> decide
  | _ => decide

/-- An opcode has 8 bits, so that its field loses nothing of the `match` column (30_encoding.md R73). -/
theorem Instr.matchWord_setWidth_toNat (i : Instr) : (i.matchWord.setWidth 8).toNat = i.matchWord.toNat := by
  cases i <;> rfl

theorem cmdFields_rsv_eq_zero {w : CmdWord} : (cmdFields w).rsv = 0 ↔ w.toNat / 512 = 0 := by
  rw [← BitVec.toNat_inj, cmdFields_rsv_toNat]
  rfl

/-! ## The opcode map -/

theorem decodePlain_eq_ok {f : Bool} {i j : Instr} : decodePlain f i = .ok j ↔ f = false ∧ i = j := by
  cases f <;> simp [decodePlain]

/-- The opcode map answers a command exactly at its opcode and its flag (30_encoding.md R72, R73). -/
theorem decodeOpcode_eq_ok {opc : Nat} {f : Bool} {i : Instr} :
    decodeOpcode opc f = .ok i ↔ opc = i.matchWord.toNat ∧ f = i.flag?.getD false := by
  constructor
  · unfold decodeOpcode
    intro h
    split at h
    case h_2 => cases h; exact ⟨rfl, rfl⟩
    case h_5 => cases h; exact ⟨rfl, rfl⟩
    case h_15 => cases h
    case h_16 => cases h
    all_goals
      obtain ⟨rfl, rfl⟩ := decodePlain_eq_ok.1 h
      exact ⟨rfl, rfl⟩
  · rintro ⟨rfl, rfl⟩
    cases i <;> rfl

/-- Where the opcode map answers a command at all (30_encoding.md R72, R73). -/
theorem decodeOpcode_ok_iff {opc : Nat} {f : Bool} :
    (∃ i, decodeOpcode opc f = .ok i) ↔ (0x01 ≤ opc ∧ opc ≤ 0x0E) ∧ (f = false ∨ opc = 0x02 ∨ opc = 0x05) := by
  constructor
  · rintro ⟨i, h⟩
    obtain ⟨rfl, rfl⟩ := decodeOpcode_eq_ok.1 h
    cases i <;> simp [Instr.matchWord, Instr.flag?]
  · rintro ⟨⟨hlo, hhi⟩, hf⟩
    rcases hf with rfl | rfl | rfl
    · interval_cases opc <;> exact ⟨_, rfl⟩
    · exact ⟨_, rfl⟩
    · exact ⟨_, rfl⟩

/-! ## The decoder -/

/-- The decoder is the opcode map where the reserved bits are 0 (30_encoding.md R74). -/
theorem decode_eq_ok {w : CmdWord} {i : Instr} :
    decode w = .ok i ↔ (cmdFields w).rsv = 0 ∧ decodeOpcode (cmdFields w).opc.toNat (cmdFields w).f = .ok i := by
  unfold decode
  split <;> simp_all

/-- A word is not a command exactly if the decoder answers none. -/
theorem decode_error_iff {w : CmdWord} : (∃ e, decode w = .error e) ↔ ¬∃ i, decode w = .ok i := by
  cases decode w <;> simp

/-- Settles O1: both sides say the same three fields. -/
theorem decodesExactlyTheEncodings : Obligations.DecodesExactlyTheEncodings := by
  intro w i
  have hopc : (cmdFields w).opc = i.matchWord.setWidth 8 ↔ (cmdFields w).opc.toNat = i.matchWord.toNat := by
    rw [← BitVec.toNat_inj, i.matchWord_setWidth_toNat]
  rw [decode_eq_ok, decodeOpcode_eq_ok, ← cmdFields_injective.eq_iff, cmdFields_encode, ← hopc, CmdFields.mk.injEq]
  tauto

/-- Settles O3. -/
theorem legalWordsAreTheWellFormedOnes : Obligations.LegalWordsAreTheWellFormedOnes := by
  intro w
  simp only [decode_eq_ok, exists_and_left, decodeOpcode_ok_iff, CmdFields.wellFormed, CmdFields.opcodeLegal,
    CmdFields.flagLegal, CmdFields.reservedZero, Bool.and_eq_true, Bool.or_eq_true, Bool.not_eq_true',
    decide_eq_true_eq, beq_iff_eq]
  tauto

/-! ## The match/mask table -/

/-- Every command has its row in the table. -/
theorem tableRow (i : Instr) : Laws.TableRow.Statement i := by
  cases i with
  | createEmpty => exact Laws.TableRow.createEmpty
  | createSized z => exact Laws.TableRow.createSized z
  | release => exact Laws.TableRow.release
  | get => exact Laws.TableRow.get
  | set b => exact Laws.TableRow.set b
  | clearRange => exact Laws.TableRow.clearRange
  | clearN => exact Laws.TableRow.clearN
  | clearAll => exact Laws.TableRow.clearAll
  | resize => exact Laws.TableRow.resize
  | resizeZerofill => exact Laws.TableRow.resizeZerofill
  | write => exact Laws.TableRow.write
  | read => exact Laws.TableRow.read
  | byteCount => exact Laws.TableRow.byteCount
  | byteAddrOf => exact Laws.TableRow.byteAddrOf

/-- A word that two rows select has both patterns on the bits that both masks compare. -/
theorem OpcodeRow.patterns_agree {r r' : OpcodeRow} {w : CmdWord} (h : r.selects w = true)
    (h' : r'.selects w = true) : r.pattern &&& r'.mask = r'.pattern &&& r.mask := by
  rw [← eq_of_beq h, ← eq_of_beq h', BitVec.and_assoc, BitVec.and_assoc, BitVec.and_comm r.mask]

/-- Any two rows differ in a bit that both masks compare (30_encoding.md R73). -/
theorem opcodeRows_patterns_differ :
    opcodeRows.Pairwise fun r r' => r.pattern &&& r'.mask ≠ r'.pattern &&& r.mask := by
  decide

/-- A list with no pair of entries has at most one. -/
theorem length_le_one_of_pairwise_false {α : Type} {l : List α} (h : l.Pairwise fun _ _ => False) :
    l.length ≤ 1 := by
  match l, h with
  | [], _ => exact Nat.zero_le 1
  | [_], _ => exact Nat.le_refl 1
  | _ :: _ :: _, h => exact (List.rel_of_pairwise_cons h List.mem_cons_self).elim

/-- No word is selected by two rows (30_encoding.md R74). -/
theorem selectingRows_length_le_one (w : CmdWord) : (opcodeRows.filter fun r => r.selects w).length ≤ 1 := by
  have hnone : (opcodeRows.filter fun r => r.selects w).Pairwise fun _ _ => False :=
    List.pairwise_filter.2 (opcodeRows_patterns_differ.imp fun hne h h' => hne (OpcodeRow.patterns_agree h h'))
  exact length_le_one_of_pairwise_false hnone

/-- The words that are a command, by their number (30_encoding.md R74). -/
theorem decode_ok_iff_toNat {w : CmdWord} :
    (∃ i, decode w = .ok i) ↔ w.toNat / 512 = 0 ∧ (0x01 ≤ w.toNat % 256 ∧ w.toNat % 256 ≤ 0x0E) ∧
      (¬w.toNat / 256 % 2 = 1 ∨ w.toNat % 256 = 0x02 ∨ w.toNat % 256 = 0x05) := by
  simp only [decode_eq_ok, exists_and_left, decodeOpcode_ok_iff, cmdFields_rsv_eq_zero, cmdFields_opc_toNat,
    cmdFields_f, decide_eq_false_iff_not]

/-- Settles O2: the rows exclude each other, a command's own row selects its encoding, and the rejected words are the
rest. -/
theorem matchMaskTableDecides : Obligations.MatchMaskTableDecides := by
  refine fun w => ⟨selectingRows_length_le_one w, fun i hdecode => ?_, ?_⟩
  · obtain ⟨hrow, hselects⟩ := tableRow i
    rw [(decodesExactlyTheEncodings w i).1 hdecode]
    exact ⟨_, hrow, beq_iff_eq.2 hselects, rfl⟩
  · rw [decode_error_iff, decode_ok_iff_toNat]
    omega

/-- Settles O4. -/
theorem specWordsDecode : Obligations.SpecWordsDecode := by
  unfold Obligations.SpecWordsDecode
  decide

end Sys2Proof
end

section
/-! What a command depends on and how the host's actions reach it: the operands a command does not read
(30_encoding.md R71), and the run of an assembled statement (R81). -/

namespace Sys2Proof.Machine

/-! ## The latches outside a command's row -/

/-- Give `LARG0` to `LARG2` new values (10_state.md R33). -/
def State.withLatches (s : State) (x y z : Word) : State := { s with larg0 := x, larg1 := y, larg2 := z }

section
variable {x y z : Word}

/-- Two branches that both keep the latches apart do so together. -/
theorem State.withLatches_ite {c : Prop} [Decidable c] {t u t' u' : State} (ht : t' = t.withLatches x y z)
    (hu : u' = u.withLatches x y z) : (if c then t' else u') = (if c then t else u).withLatches x y z := by
  split <;> assumption

/-- A command reads the latches of its own row only, and writes none (30_encoding.md R71). -/
theorem exec_withLatches (i : Instr) (s : State) (hx : 0 < i.arity → x = s.larg0) (hy : 1 < i.arity → y = s.larg1)
    (hz : 2 < i.arity → z = s.larg2) :
    ∃ t t', exec i s = .next t ∧ exec i (s.withLatches x y z) = .next t' ∧ t' = t.withLatches x y z := by
  cases i with
  | createEmpty => exact ⟨_, _, rfl, rfl, State.withLatches_ite rfl rfl⟩
  | createSized b =>
    obtain rfl := hx Nat.one_pos
    exact ⟨_, _, rfl, rfl, State.withLatches_ite rfl (State.withLatches_ite rfl rfl)⟩
  | release => exact ⟨_, _, rfl, rfl, State.withLatches_ite rfl rfl⟩
  | get =>
    obtain rfl := hx (by decide)
    exact ⟨_, _, rfl, rfl, State.withLatches_ite (State.withLatches_ite rfl rfl) rfl⟩
  | set b =>
    obtain rfl := hx Nat.one_pos
    exact ⟨_, _, rfl, rfl, State.withLatches_ite (State.withLatches_ite rfl rfl) rfl⟩
  | clearRange =>
    obtain rfl := hx (by decide)
    obtain rfl := hy (by decide)
    exact ⟨_, _, rfl, rfl, State.withLatches_ite (State.withLatches_ite rfl rfl) rfl⟩
  | clearN =>
    obtain rfl := hx (by decide)
    obtain rfl := hy (by decide)
    exact ⟨_, _, rfl, rfl, State.withLatches_ite (State.withLatches_ite rfl rfl) rfl⟩
  | clearAll => exact ⟨_, _, rfl, rfl, State.withLatches_ite rfl rfl⟩
  | resize =>
    obtain rfl := hx (by decide)
    exact ⟨_, _, rfl, rfl, State.withLatches_ite (State.withLatches_ite rfl rfl) rfl⟩
  | resizeZerofill =>
    obtain rfl := hx (by decide)
    exact ⟨_, _, rfl, rfl, State.withLatches_ite (State.withLatches_ite rfl rfl) rfl⟩
  | write =>
    obtain rfl := hx (by decide)
    obtain rfl := hy (by decide)
    obtain rfl := hz (by decide)
    cases hc : s.codecError with
    | some e => exact ⟨_, _, execWrite_of_codecError hc, execWrite_of_codecError hc, rfl⟩
    | none => exact ⟨_, _, execWrite_of_checked hc, execWrite_of_checked hc, rfl⟩
  | read =>
    obtain rfl := hx (by decide)
    obtain rfl := hy (by decide)
    obtain rfl := hz (by decide)
    cases hc : s.codecError with
    | some e => exact ⟨_, _, execRead_of_codecError hc, execRead_of_codecError hc, rfl⟩
    | none => exact ⟨_, _, execRead_of_checked hc, execRead_of_checked hc, rfl⟩
  | byteCount => exact ⟨_, _, rfl, rfl, State.withLatches_ite rfl rfl⟩
  | byteAddrOf =>
    obtain rfl := hx (by decide)
    exact ⟨_, _, rfl, rfl, State.withLatches_ite (State.withLatches_ite rfl rfl) rfl⟩

theorem exec_withLatches_of_next {i : Instr} {s t : State} (h : exec i s = .next t)
    (hx : 0 < i.arity → x = s.larg0) (hy : 1 < i.arity → y = s.larg1) (hz : 2 < i.arity → z = s.larg2) :
    exec i (s.withLatches x y z) = .next (t.withLatches x y z) := by
  obtain ⟨u, _, hu, hlatches, rfl⟩ := exec_withLatches i s hx hy hz
  cases hu.symm.trans h
  exact hlatches

end

theorem exec_withArgs_of_next {i : Instr} {s t : State} (h : exec i s = .next t) (x y z : Word) :
    exec i (s.withArgs x y z) = .next (t.withArgs x y z) := by
  obtain ⟨u, _, hu, hargs, rfl⟩ := exec_withArgs i s x y z
  cases hu.symm.trans h
  exact hargs

theorem State.CommandEnds.sameArgs {s t : State} (h : s.CommandEnds t) : s.SameArgs t := by
  cases h with
  | completes _ _ h => exact h.args
  | fails _ _ h => exact h.args

/-- Settles O41: one latch or argument register changes and the others keep the values that the command leaves. -/
theorem commandsIgnoreOtherArguments : Obligations.CommandsIgnoreOtherArguments := by
  intro i s t v h
  have keeps := (commandEnds_of_exec h).sameArgs
  refine ⟨fun hi => ?_, fun hi => ?_, fun hi => ?_, ?_, ?_, ?_⟩
  · exact (exec_withLatches_of_next (x := s.larg0) (y := s.larg1) (z := v) h (fun _ => rfl) (fun _ => rfl)
      (fun _ => by omega)).trans (by rw [← keeps.larg0, ← keeps.larg1]; rfl)
  · exact (exec_withLatches_of_next (x := s.larg0) (y := v) (z := s.larg2) h (fun _ => rfl) (fun _ => by omega)
      (fun _ => rfl)).trans (by rw [← keeps.larg0, ← keeps.larg2]; rfl)
  · exact (exec_withLatches_of_next (x := v) (y := s.larg1) (z := s.larg2) h (fun _ => by omega) (fun _ => rfl)
      (fun _ => rfl)).trans (by rw [← keeps.larg1, ← keeps.larg2]; rfl)
  · exact (exec_withArgs_of_next h v s.arg1 s.arg2).trans (by rw [← keeps.arg1, ← keeps.arg2]; rfl)
  · exact (exec_withArgs_of_next h s.arg0 v s.arg2).trans (by rw [← keeps.arg0, ← keeps.arg2]; rfl)
  · exact (exec_withArgs_of_next h s.arg0 s.arg1 v).trans (by rw [← keeps.arg0, ← keeps.arg1]; rfl)

/-! ## A run -/

theorem run_succ_of_step {M : Host.Core} {s t : M.State} (h : M.step s = .next t) (k : Nat) :
    M.run (k + 1) s = M.run k t := by
  rw [Host.Core.run, h]

theorem run_one (M : Host.Core) (s : M.State) : M.run 1 s = M.step s := by
  rw [Host.Core.run]
  cases M.step s <;> rfl

/-! ## The host actions of a statement -/

theorem run_regWrite {s : State} (r : WindowReg) {v : Word} {rest : List Turn}
    (h : s.turns = .host (.regWrite (s.platform.base + r.offset) r.width v) :: rest) (k : Nat) :
    core.run (k + 1) s = core.run k (s.popTurn.writeReg r v) :=
  run_succ_of_step (M := core) (step_of_regWrite r h) k

theorem arity_le_three (i : Instr) : i.arity ≤ 3 := by
  cases i <;> simp [Instr.arity]

/-- Write the operands of a statement to the argument registers, from `ARG0` on (30_encoding.md R81). -/
def State.withOperands (s : State) (vs : List Word) : State :=
  s.withArgs (vs.getD 0 s.arg0) (vs.getD 1 s.arg1) (vs.getD 2 s.arg2)

/-- The argument writes of a statement take one step for each operand (30_encoding.md R81, 10_state.md R32). -/
theorem run_argWrites {s : State} {vs : List Word} {rest : List Turn} (hlen : vs.length ≤ 3)
    (hturns : s.turns = argWrites s.platform.base [0x08, 0x10, 0x18] vs ++ rest) (k : Nat) :
    core.run (k + vs.length) s = core.run k (State.withOperands { s with turns := rest } vs) := by
  match vs, hlen, hturns with
  | [], _, hturns =>
    obtain rfl : s.turns = rest := hturns
    rfl
  | [x], _, hturns =>
    obtain rfl : s.turns.tail = rest := congrArg List.tail hturns
    exact run_regWrite .arg0 hturns k
  | [x, y], _, hturns =>
    have htail := congrArg List.tail hturns
    obtain rfl : s.turns.tail.tail = rest := congrArg List.tail htail
    exact (run_regWrite .arg0 hturns (k + 1)).trans (run_regWrite .arg1 htail k)
  | [x, y, z], _, hturns =>
    have htail := congrArg List.tail hturns
    have htail' := congrArg List.tail htail
    obtain rfl : s.turns.tail.tail.tail = rest := congrArg List.tail htail'
    exact (run_regWrite .arg0 hturns (k + 2)).trans
      ((run_regWrite .arg1 htail (k + 1)).trans (run_regWrite .arg2 htail' k))

/-- The write of a command's word and the controller's turn after it run the command (10_state.md R33). -/
theorem run_commandWrite {s : State} {i : Instr} {rest : List Turn} (hidle : s.busy = false)
    (hturns : s.turns = .host (.regWrite s.platform.base .w32 ((encode i).setWidth 64)) :: .controller :: rest) :
    core.run 2 s = exec i (State.acceptCommand { s with turns := rest } (encode i)) := by
  have haccept : step s = .next (s.popTurn.acceptCommand (encode i)) := by
    rw [step_of_acceptedCommand hidle hturns, BitVec.setWidth_setWidth_of_le _ (by decide), BitVec.setWidth_eq]
  have hnext : (s.popTurn.acceptCommand (encode i)).turns = .controller :: rest := State.popTurn_turns_of hturns
  have hexec : step (s.popTurn.acceptCommand (encode i))
      = exec i (State.acceptCommand { s with turns := rest } (encode i)) := by
    rw [step_of_controllerNext (.inr (by rw [hnext]; rfl)),
      controllerTurn_of_decode rfl ((decodesExactlyTheEncodings _ _).2 rfl), State.popTurn_of_turns hnext]
    rfl
  exact (run_succ_of_step (M := core) haccept 1).trans ((run_one core _).trans hexec)

/-- Settles O51: the run of the argument writes, then that of the command word and the controller's turn. -/
theorem assembledStatementRuns : Obligations.AssembledStatementRuns := by
  intro p s rest hwf hidle hturns
  have hlen : p.args.length ≤ 3 := (eq_of_beq hwf).trans_le (arity_le_three p.instr)
  rw [hostActions, List.append_assoc] at hturns
  refine ⟨State.acceptCommand (State.withOperands { s with turns := rest } p.args) (encode p.instr), ?_, rfl, rfl,
    ⟨rfl, rfl, rfl, rfl, rfl⟩, rfl, rfl, fun k v hk => ?_⟩
  · rw [Nat.add_comm]
    exact (run_argWrites hlen hturns 2).trans (run_commandWrite hidle rfl)
  · have hk3 : k < 3 := (List.getElem?_eq_some_iff.1 hk).1.trans_le hlen
    interval_cases k <;> simp [State.withOperands, State.withArgs, hk]

end Sys2Proof.Machine
end

section
/-! The commands of the Allocation & Capacity Manager (40_allocation.md R100 to R106): how each of them ends in each
case of its checks, and what a granted one makes of the buffer. -/

namespace Sys2Proof.Machine

/-! ## The checks that end a command -/

theorem State.codecError_of_absent {s : State} (h : s.present = false) : s.codecError = some .state := by
  rcases s.codecError_cases with ⟨_, hc⟩ | ⟨hp, _⟩ | ⟨hp, _⟩ | ⟨hp, _⟩
  · exact hc
  all_goals exact absurd (h.symm.trans hp) Bool.false_ne_true

/-- The presence check is the first of every command (60_exceptions.md R203, R207). -/
theorem exec_of_presenceFails {i : Instr} {s : State} (h : presenceFails i s) : exec i s = .next (s.raise .state) := by
  have absent {t : State} (h : s.present = false) : (if s.present then t else s.raise .state) = s.raise .state :=
    if_neg (Bool.eq_false_iff.1 h)
  cases i with
  | createEmpty | createSized => exact congrArg _ (if_pos h)
  | write => exact execWrite_of_codecError (State.codecError_of_absent h)
  | read => exact execRead_of_codecError (State.codecError_of_absent h)
  | release | get | set | clearRange | clearN | clearAll | resize | resizeZerofill | byteCount | byteAddrOf =>
    exact congrArg _ (absent h)

theorem exec_failsWith_state (i : Instr) (s : State) (h : presenceFails i s) :
    ∃ t, exec i s = .next t ∧ s.FailsWith t .state :=
  ⟨_, exec_of_presenceFails h, s.raise_failsWith .state⟩

/-- A command that fails its presence check makes no request (20_memory.md R56). -/
theorem exec_failsWith_state_noRequest (i : Instr) (s : State) (h : presenceFails i s) :
    ∃ t, exec i s = .next t ∧ s.FailsWith t .state ∧ t.allocAnswers = s.allocAnswers :=
  ⟨_, exec_of_presenceFails h, s.raise_failsWith .state, rfl⟩

/-- An allocating command whose request is refused changes nothing (20_memory.md R56). -/
theorem exec_failsWith_oom {i : Instr} {s : State} (hi : i = .resize ∨ i = .resizeZerofill ∨ ∃ z, i = .createSized z)
    (hp : s.present = !createsBuffer i) (hrefused : s.allocGrants (ceil8 s.larg0.toNat) = false) :
    ∃ t, exec i s = .next t ∧ s.FailsWith t .oom := by
  obtain ⟨u, r0, r1, hexec, -⟩ := exec_of_request hi hp
  exact ⟨_, hexec.trans (congrArg _ (if_neg (Bool.eq_false_iff.1 hrefused))), s.afterRequest_raise_failsWith _ .oom⟩

/-! ## The commands that pass their checks -/

section
variable {s : State}

theorem execCreateEmpty_of_absent (hp : s.present = false) :
    execCreateEmpty s = .next ((s.replaceBuffer [] 0 0 true).complete 0 0) :=
  congrArg _ (if_neg (Bool.eq_false_iff.1 hp))

theorem execRelease_of_present (hp : s.present = true) :
    execRelease s = .next ((s.replaceBuffer [] 0 0 false).complete 0 0) :=
  congrArg _ (if_pos hp)

theorem execByteCount_of_present (hp : s.present = true) :
    execByteCount s = .next (s.complete (zextW (s.capacity.toNat / 8)) 0) :=
  congrArg _ (if_pos hp)

theorem execByteAddrOf_of_present (hp : s.present = true) :
    execByteAddrOf s = .next
      (if s.capacity.toNat ≤ s.larg0.toNat then s.raise .precond
        else s.complete (zextW (s.larg0.toNat / 8)) s.gen) :=
  congrArg _ (if_pos hp)

end

/-- `complete` after updates that leave `FAULTS`, the argument registers, the latches and the environment alone, with
its results (60_exceptions.md R201). -/
theorem State.complete_completesWith {s u : State} (r0 r1 : Word) (faults : u.faults = s.faults := by rfl)
    (args : s.SameArgs u := by constructor <;> rfl) (environment : s.SameEnvironment u := by constructor <;> rfl) :
    s.CompletesWith (u.complete r0 r1) r0 r1 :=
  ⟨rfl, rfl, rfl, rfl, faults, { args with }, { environment with }⟩

/-- `GEN` counts modulo 2^64 (10_state.md R27). -/
theorem State.gen_add_one_toNat (s : State) : (s.gen + 1).toNat = (s.gen.toNat + 1) % 2 ^ 64 :=
  BitVec.toNat_add s.gen 1

/-! ## Results and sizes that fit in a register -/

theorem toNat_zextW_of_lt {n : Nat} (h : n < 2 ^ 64) : (zextW n).toNat = n := by
  rw [zextW, BitVec.toNat_ofNat, Nat.mod_eq_of_lt h]

/-- A signed value within the range of `W` bits is its two's complement pattern's (00_scope.md R9). -/
theorem toInt_twosW {v : Int} (hlo : -2 ^ 63 ≤ v) (hhi : v < 2 ^ 63) : (twosW v).toInt = v := by
  rw [twosW, BitVec.toInt_ofInt]
  exact Int.bmod_eq_of_le_mul_two (by omega) (by omega)

/-- The handle of a byte is the bit index shifted (40_allocation.md R106). -/
theorem zextW_div_eight (w : Word) : zextW (w.toNat / 8) = w >>> 3 := by
  have hlt := w.isLt
  apply BitVec.eq_of_toNat_eq
  rw [toNat_zextW_of_lt (by omega), BitVec.toNat_ushiftRight, Nat.shiftRight_eq_div_pow]

/-- What the allocator can grant is bounded by 00_scope.md R7. -/
theorem State.granted_le {s : State} {n : Nat} (hlaw : s.platform.wellFormed = true)
    (hgrant : s.allocGrants n = true) : 8 * n ≤ 2 ^ 63 - 8 := by
  have hmax := State.le_maxBytes_of_allocGrants hgrant
  simp only [Platform.wellFormed, Bool.and_eq_true, decide_eq_true_eq] at hlaw
  omega

/-- The capacity of a granted buffer is exact: nothing is lost in the reduction to `W` bits. -/
theorem State.granted_capacity_toNat {s : State} {n : Nat} (hlaw : s.platform.wellFormed = true)
    (hgrant : s.allocGrants n = true) : (zextW (8 * n)).toNat = 8 * n := by
  have hle := State.granted_le hlaw hgrant
  exact toNat_zextW_of_lt (by omega)

/-- The size that a resize takes away is a signed number of `W` bits: both sizes are bounded by 00_scope.md R7. -/
theorem State.Inv.sizeDelta_toInt {s : State} (h : s.Inv) (hgrant : s.allocGrants (ceil8 s.larg0.toNat) = true) :
    (twosW ((s.size.toNat : Int) - s.larg0.toNat)).toInt = (s.size.toNat : Int) - s.larg0.toNat := by
  have hnew : s.larg0.toNat ≤ 8 * ceil8 s.larg0.toNat := by rw [ceil8]; omega
  have hgranted := State.granted_le h.platformLaw hgrant
  have hlaw := h.platformLaw
  simp only [Platform.wellFormed, Bool.and_eq_true, decide_eq_true_eq] at hlaw
  have hold := h.sizeLeCapacity
  have hcapacity := h.capacityGrantable
  exact toInt_twosW (by omega) (by omega)

/-! ## The bits of the new storage -/

/-- Every bit of a zero-filled buffer (40_allocation.md R101). -/
theorem bufBit_freshBytes_zeroFill (nb d i : Nat) : bufBit (freshBytes true nb d) i = false := by
  by_cases h : i / 8 < nb
  · rw [bufBit, bufByte_freshBytes true d h, if_pos rfl]
    exact BitVec.getLsbD_zero
  · exact bufBit_of_ge (by rw [freshBytes_length]; omega)

/-- The zero step of 40_allocation.md R104 clears exactly the exposed bits. -/
theorem bufBit_zeroExposed (bs : List Byte) (old m i : Nat) :
    bufBit (zeroExposed bs old m) i = if old ≤ i ∧ i < m then false else bufBit bs i := by
  rw [zeroExposed]
  split
  · exact bufBit_clearBits bs old m i
  · rw [if_neg (by omega)]

section
variable {s : State}

/-- A resize keeps the bytes below both lengths (40_allocation.md R103). -/
theorem State.Inv.bufByte_resized_kept (h : s.Inv) {k : Nat} (hold : k < s.bmem.length)
    (hnew : k < ceil8 s.larg0.toNat) : bufByte s.resized.bmem k = bufByte s.bmem k := by
  rw [State.resized_bmem, ← h.bmemLength, bufByte_regrow _ _ hnew, if_pos hold]

theorem State.Inv.bufBit_resized_kept (h : s.Inv) {i : Nat} (hold : i < 8 * s.bmem.length)
    (hnew : i < 8 * ceil8 s.larg0.toNat) : bufBit s.resized.bmem i = bufBit s.bmem i := by
  rw [bufBit, h.bufByte_resized_kept (by omega) (by omega), bufBit]

end

/-! ## The rules -/

/-- Settles O10, by the presence check. -/
theorem createEmptyRule : Obligations.CreateEmptyRule :=
  ⟨(decodesExactlyTheEncodings _ _).2 rfl, fun s =>
    ⟨exec_failsWith_state .createEmpty s, fun hp =>
      ⟨_, execCreateEmpty_of_absent hp, State.complete_completesWith 0 0, rfl, rfl, rfl, rfl, s.gen_add_one_toNat,
        fun _ => rfl, rfl⟩⟩⟩

/-- Settles O11, by the presence check and the answer to the request for `ceil8 numBits` bytes. -/
theorem createSizedRule : Obligations.CreateSizedRule := by
  refine ⟨(decodesExactlyTheEncodings _ _).2 rfl, (decodesExactlyTheEncodings _ _).2 rfl, fun z s => ?_⟩
  have refused := exec_failsWith_oom (i := .createSized z) (s := s) (.inr (.inr ⟨z, rfl⟩))
  refine ⟨exec_failsWith_state_noRequest (.createSized z) s, refused,
    fun hp hmax => refused hp (State.allocGrants_of_maxBytes_lt hmax), fun hp hlaw hgrant => ?_⟩
  refine ⟨_, (execCreateSized_of_absent hp z).trans (congrArg _ (if_pos hgrant)), State.complete_completesWith 0 0,
    freshBytes_length _ _ _, ?_, State.granted_capacity_toNat hlaw hgrant, rfl, rfl, s.gen_add_one_toNat, fun _ => rfl⟩
  rintro rfl i
  exact bufBit_freshBytes_zeroFill _ _ i

/-- Settles O12, by the presence check. -/
theorem releaseRule : Obligations.ReleaseRule :=
  ⟨(decodesExactlyTheEncodings _ _).2 rfl, fun s =>
    ⟨exec_failsWith_state .release s, fun hp =>
      ⟨_, execRelease_of_present hp, State.complete_completesWith 0 0, rfl, rfl, rfl, rfl, s.gen_add_one_toNat,
        fun _ => rfl, rfl⟩⟩⟩

/-- Settles O13: what stays is what `regrow` keeps, and both sizes fit a signed register. -/
theorem resizeRule : Obligations.ResizeRule := by
  refine ⟨(decodesExactlyTheEncodings _ _).2 rfl, fun s => ⟨exec_failsWith_state_noRequest .resize s,
    exec_failsWith_oom (.inl rfl), fun hp hs hgrant => ?_⟩⟩
  exact ⟨_, (execResize_of_present hp).trans (congrArg _ (if_pos hgrant)), State.complete_completesWith _ 0,
    hs.sizeDelta_toInt hgrant, regrow_length _ _ _ _,
    fun k hnew hold => hs.bufByte_resized_kept hold (hnew.trans_eq (regrow_length _ _ _ _)),
    State.granted_capacity_toNat hs.platformLaw hgrant, rfl, hp, s.gen_add_one_toNat, fun _ => rfl⟩

/-- Settles O14: `resize`, and then the zero step on exactly the exposed bits. -/
theorem resizeZerofillRule : Obligations.ResizeZerofillRule := by
  refine ⟨(decodesExactlyTheEncodings _ _).2 rfl, fun s => ⟨exec_failsWith_state_noRequest .resizeZerofill s,
    exec_failsWith_oom (.inr (.inl rfl)), fun hp hs hgrant => ?_⟩⟩
  have hlength : (zeroExposed s.resized.bmem s.size.toNat s.larg0.toNat).length = ceil8 s.larg0.toNat :=
    (zeroExposed_length _ _ _).trans (regrow_length _ _ _ _)
  refine ⟨_, (execResizeZerofill_of_present hp).trans (congrArg _ (if_pos hgrant)), State.complete_completesWith _ 0,
    hs.sizeDelta_toInt hgrant, hlength, fun i hlo hhi => ?_, fun i hnew hold hkept => ?_,
    State.granted_capacity_toNat hs.platformLaw hgrant, rfl, hp, s.gen_add_one_toNat, fun _ => rfl⟩
  · exact (bufBit_zeroExposed _ _ _ i).trans (if_pos ⟨hlo, hhi⟩)
  · calc bufBit (zeroExposed s.resized.bmem s.size.toNat s.larg0.toNat) i
        = bufBit s.resized.bmem i := (bufBit_zeroExposed _ _ _ i).trans (if_neg hkept)
      _ = bufBit s.bmem i := hs.bufBit_resized_kept hold (hnew.trans_eq (congrArg (8 * ·) hlength))

/-- Settles O15, by the presence check. -/
theorem byteCountRule : Obligations.ByteCountRule := by
  refine ⟨(decodesExactlyTheEncodings _ _).2 rfl, fun s => ⟨exec_failsWith_state .byteCount s, fun hp => ?_⟩⟩
  have hlt := s.capacity.isLt
  exact ⟨_, execByteCount_of_present hp, State.complete_completesWith _ 0, ⟨rfl, rfl, rfl, rfl, rfl⟩, fun _ => rfl,
    toNat_zextW_of_lt (by omega)⟩

/-- Settles O16, by the presence check and the bound `CAPACITY`. -/
theorem byteAddrOfRule : Obligations.ByteAddrOfRule := by
  refine ⟨(decodesExactlyTheEncodings _ _).2 rfl, fun s => ⟨exec_failsWith_state .byteAddrOf s,
    fun hp hout => ?_, fun hp hin => ?_⟩⟩
  · exact ⟨_, (execByteAddrOf_of_present hp).trans (congrArg _ (if_pos hout)), s.raise_failsWith .precond⟩
  · refine ⟨_, (execByteAddrOf_of_present hp).trans (congrArg _ (if_neg (Nat.not_le.2 hin))), ?_,
      ⟨rfl, rfl, rfl, rfl, rfl⟩, fun _ => rfl⟩
    rw [zextW_div_eight]
    exact State.complete_completesWith _ _

end Sys2Proof.Machine
end

section
/-! The commands of the Single-Bit Accessor (41_single_bit.md R130 and R131): how each of them ends in each case of its
checks, and what setting a bit makes of the buffer. -/

namespace Sys2Proof.Machine

/-! ## The commands past their presence check -/

section
variable {s : State}

theorem execGet_of_present (hp : s.present = true) :
    execGet s = .next
      (if s.size.toNat ≤ s.larg0.toNat then s.raise .precond
        else s.complete (zextW (bufBit s.bmem s.larg0.toNat).toNat) 0) :=
  congrArg _ (if_pos hp)

theorem execSet_of_present (hp : s.present = true) (b : Bool) :
    execSet b s = .next
      (if s.size.toNat ≤ s.larg0.toNat then s.raise .precond
        else (s.withBmem (setBufBit s.bmem s.larg0.toNat b)).complete 0 0) :=
  congrArg _ (if_pos hp)

/-- `set` with an index outside `[0, SIZE)`, even where the byte exists (41_single_bit.md R131). -/
theorem execSet_of_outOfSize (hp : s.present = true) (hout : s.size.toNat ≤ s.larg0.toNat) (b : Bool) :
    execSet b s = .next (s.raise .precond) :=
  (execSet_of_present hp b).trans (congrArg _ (if_pos hout))

theorem execSet_of_inSize (hp : s.present = true) (hin : s.larg0.toNat < s.size.toNat) (b : Bool) :
    execSet b s = .next ((s.withBmem (setBufBit s.bmem s.larg0.toNat b)).complete 0 0) :=
  (execSet_of_present hp b).trans (congrArg _ (if_neg (Nat.not_le.2 hin)))

/-- An index below `SIZE` is that of a bit the buffer has (10_state.md R23). -/
theorem State.Inv.index_lt_bits (h : s.Inv) (hin : s.larg0.toNat < s.size.toNat) :
    s.larg0.toNat < 8 * s.bmem.length := by
  have hwhole := h.capacityWhole
  have hlength := h.bmemLength
  have hsize := h.sizeLeCapacity
  omega

end

/-- A second error completion with the same code changes nothing: the `FAULTS` bits are sticky (60_exceptions.md
R202). -/
theorem State.raise_raise (s : State) (e : ErrCode) : (s.raise e).raise e = s.raise e := by
  simp [State.raise, BitVec.or_assoc]

/-! ## One bit of the buffer -/

/-- A bit of the buffer as a number (00_scope.md R8). -/
theorem bufBit_toNat (bs : List Byte) (i : Nat) :
    (bufBit bs i).toNat = (bs.getD (i / 8) 0).toNat / 2 ^ (i % 8) % 2 :=
  Nat.toNat_testBit _ _

/-- The mask formula of 41_single_bit.md R131 gives the byte back where the bit already has the value. -/
theorem setBufBit_of_bufBit_eq {bs : List Byte} {i : Nat} {v : Bool} (hi : i < 8 * bs.length) (h : bufBit bs i = v) :
    setBufBit bs i v = bs := by
  have hbyte : (bufByte bs (i / 8) &&& ~~~((1 : Byte) <<< (i % 8))) ||| (BitVec.ofBool v).setWidth 8 <<< (i % 8)
      = bufByte bs (i / 8) := byte_ext fun j hj => by
    rw [setBit_getLsbD _ _ (Nat.mod_lt _ (by decide)) hj]
    split
    next heq => rw [heq, ← h, bufBit]
    next => rfl
  have hk : i / 8 < bs.length := by omega
  rw [setBufBit, hbyte, bufByte, List.getD_eq_getElem _ _ hk, List.set_getElem_self]

theorem setBufBit_setBufBit {bs : List Byte} {i : Nat} (hi : i < 8 * bs.length) (v : Bool) :
    setBufBit (setBufBit bs i v) i v = setBufBit bs i v :=
  setBufBit_of_bufBit_eq (by rwa [setBufBit_length]) ((bufBit_setBufBit bs i v hi i).trans (if_pos rfl))

/-! ## The rules -/

/-- Settles O17, by the presence check and the bound `SIZE`. -/
theorem getRule : Obligations.GetRule := by
  refine ⟨(decodesExactlyTheEncodings _ _).2 rfl, fun s => ⟨exec_failsWith_state .get s,
    fun hp hout => ?_, fun hp hin => ?_⟩⟩
  · exact ⟨_, (execGet_of_present hp).trans (congrArg _ (if_pos hout)), s.raise_failsWith .precond⟩
  · refine ⟨_, (execGet_of_present hp).trans (congrArg _ (if_neg (Nat.not_le.2 hin))), ?_,
      ⟨rfl, rfl, rfl, rfl, rfl⟩, fun _ => rfl⟩
    rw [bufBit_toNat]
    exact State.complete_completesWith _ 0

/-- Settles O18, by the presence check and the bound `SIZE`; below it the bit is in the buffer, by the invariant. -/
theorem setRule : Obligations.SetRule := by
  refine ⟨(decodesExactlyTheEncodings _ _).2 rfl, (decodesExactlyTheEncodings _ _).2 rfl, fun b s =>
    ⟨exec_failsWith_state (.set b) s, fun hp hout => ?_, fun hp hs hin => ?_⟩⟩
  · exact ⟨_, execSet_of_outOfSize hp hout b, s.raise_failsWith .precond⟩
  · exact ⟨_, execSet_of_inSize hp hin b, State.complete_completesWith 0 0, ⟨rfl, rfl, rfl, rfl⟩, fun _ => rfl,
      setBufBit_length _ _ _, bufBit_setBufBit _ _ b (hs.index_lt_bits hin)⟩

/-- Settles O19, by how the first `set` ends: the second meets the same checks, and ends the same way. -/
theorem setIsIdempotent : Obligations.SetIsIdempotent := by
  intro b s t hs h
  cases hp : s.present with
  | false =>
    have fails {u : State} (hu : u.present = false) : exec (.set b) u = .next (u.raise .state) :=
      exec_of_presenceFails hu
    cases (fails hp).symm.trans h
    exact ⟨(fails (u := s.raise .state) hp).trans (congrArg _ (s.raise_raise .state)), fun _ => rfl⟩
  | true =>
    rcases Nat.lt_or_ge s.larg0.toNat s.size.toNat with hin | hout
    · have hbit := hs.index_lt_bits hin
      cases (execSet_of_inSize hp hin b).symm.trans h
      have hagain := execSet_of_inSize (s := (s.withBmem (setBufBit s.bmem s.larg0.toNat b)).complete 0 0) hp hin b
      rw [State.complete_bmem, State.withBmem_bmem, State.complete_larg0, State.withBmem_larg0,
        setBufBit_setBufBit hbit] at hagain
      exact ⟨hagain, setBufBit_of_bufBit_eq hbit⟩
    · cases (execSet_of_outOfSize hp hout b).symm.trans h
      have hagain := execSet_of_outOfSize (s := s.raise .precond) hp hout b
      exact ⟨hagain.trans (congrArg _ (s.raise_raise .precond)), fun _ => rfl⟩

end Sys2Proof.Machine
end

section
/-! The Range Clear Engine (42_range_clear.md R140 to R143): the bit-by-bit loop and the byte-level datapath, each
composed of clears of adjacent ranges, and how the three commands end in each case of their checks. -/

namespace Sys2Proof.Machine

/-! ## Clearing adjacent ranges -/

/-- Two buffers of the same length are equal when their bits are. -/
theorem eq_of_bufBit_eq {bs cs : List Byte} (hlength : bs.length = cs.length) (hbits : ∀ i, bufBit bs i = bufBit cs i) :
    bs = cs := by
  refine List.ext_getElem hlength fun k hk hk' => byte_ext fun j hj => ?_
  have h := hbits (8 * k + j)
  rwa [bufBit_of_byte _ _ hj, bufBit_of_byte _ _ hj, bufByte, bufByte, List.getD_eq_getElem _ _ hk,
    List.getD_eq_getElem _ _ hk'] at h

theorem clearBits_of_empty (bs : List Byte) {b e : Nat} (h : e ≤ b) : clearBits bs b e = bs :=
  eq_of_bufBit_eq (clearBits_length _ _ _) fun i => by rw [bufBit_clearBits, if_neg (by omega)]

/-- Clearing `[b, m)` and then `[m, e)` clears `[b, e)`. -/
theorem clearBits_clearBits (bs : List Byte) {b m e : Nat} (hbm : b ≤ m) (hme : m ≤ e) :
    clearBits (clearBits bs b m) m e = clearBits bs b e := by
  refine eq_of_bufBit_eq (by simp only [clearBits_length]) fun i => ?_
  simp only [bufBit_clearBits]
  grind

/-! ## Clearing bits of one byte -/

/-- The byte operation `f` makes the bits `[lo, hi)` of a byte 0 and keeps the others. -/
def ClearsByteBits (f : Byte → Byte) (lo hi : Nat) : Prop :=
  ∀ (x : Byte) (j : Nat), j < 8 → (f x).getLsbD j = if lo ≤ j ∧ j < hi then false else x.getLsbD j

@[simp] theorem editByte_length (bs : List Byte) (k : Nat) (f : Byte → Byte) : (editByte bs k f).length = bs.length :=
  List.length_set

/-- An operation that keeps 0 may be applied to any byte: beyond the buffer both sides are 0 (log 17). -/
theorem bufByte_editByte {f : Byte → Byte} (hzero : f 0 = 0) (bs : List Byte) (k n : Nat) :
    bufByte (editByte bs k f) n = if n = k then f (bufByte bs n) else bufByte bs n := by
  split
  next heq =>
    subst heq
    rcases Nat.lt_or_ge n bs.length with hin | hout
    · simp [editByte, bufByte, List.getD_eq_getElem?_getD, hin]
    · rw [bufByte_of_ge (bs := bs) hout, hzero, bufByte_of_ge (by rwa [editByte_length])]
  next hne => simp [editByte, bufByte, List.getD_eq_getElem?_getD, List.getElem?_set_ne (Ne.symm hne)]

/-- Clearing bits of byte `k` clears a range of the buffer; beyond the buffer both do nothing. -/
theorem editByte_eq_clearBits {f : Byte → Byte} {lo hi : Nat} (hf : ClearsByteBits f lo hi) (hhi : hi ≤ 8)
    (bs : List Byte) (k : Nat) : editByte bs k f = clearBits bs (8 * k + lo) (8 * k + hi) := by
  refine eq_of_bufBit_eq (by simp only [editByte_length, clearBits_length]) fun i => ?_
  have hzero : f 0 = 0 := byte_ext fun j hj => (hf 0 j hj).trans (ite_eq_right_iff.2 fun _ => BitVec.getLsbD_zero.symm)
  rw [bufBit_clearBits, bufBit, bufByte_editByte hzero]
  split
  next heq =>
    rw [hf _ _ (Nat.mod_lt i (by decide)), ← bufBit]
    exact if_congr (by omega) rfl rfl
  next hne => rw [if_neg (by omega), ← bufBit]

theorem clearsByteBits_zero : ClearsByteBits (fun _ => 0) 0 8 := fun _ j hj =>
  BitVec.getLsbD_zero.trans (if_pos ⟨j.zero_le, hj⟩).symm

/-- The mask of one step of the loop (42_range_clear.md R140). -/
theorem clearsByteBits_bitMask {p : Nat} (hp : p < 8) :
    ClearsByteBits (fun x => x &&& ~~~((1 : Byte) <<< p)) p (p + 1) := fun x j hj => by
  have hbit : (x &&& ~~~((1 : Byte) <<< p)).getLsbD j = if j = p then false else x.getLsbD j := by
    simpa using setBit_getLsbD x false hp hj
  exact hbit.trans (if_congr (by omega) rfl rfl)

theorem lowMask_getLsbD (n : Nat) {j : Nat} (hj : j < 8) : (lowMask n).getLsbD j = decide (j < n) := by
  rw [lowMask, BitVec.getLsbD_ofNat, Nat.testBit_two_pow_sub_one, decide_eq_true hj, Bool.true_and]

/-- The masks of the datapath, `BMEM[k] & ~(bits [lo, hi))` (42_range_clear.md R141). -/
theorem clearsByteBits_window (lo hi : Nat) :
    ClearsByteBits (fun x => x &&& ~~~(lowMask hi &&& ~~~(lowMask lo))) lo hi := fun x j hj => by
  simp only [BitVec.getLsbD_and, BitVec.getLsbD_not, lowMask_getLsbD _ hj]
  grind

theorem clearsByteBits_head (lo : Nat) : ClearsByteBits (fun x => x &&& lowMask lo) lo 8 := fun x j hj => by
  simp only [BitVec.getLsbD_and, lowMask_getLsbD _ hj]
  grind

theorem clearsByteBits_tail (hi : Nat) : ClearsByteBits (fun x => x &&& ~~~(lowMask hi)) 0 hi := fun x j hj => by
  simp only [BitVec.getLsbD_and, BitVec.getLsbD_not, lowMask_getLsbD _ hj]
  grind

/-! ## The loop -/

/-- One step of the loop clears bit `b`. -/
theorem editByte_bitMask (bs : List Byte) (b : Nat) :
    (editByte bs (b / 8) fun x => x &&& ~~~((1 : Byte) <<< (b % 8))) = clearBits bs b (b + 1) := by
  have hmod : b % 8 < 8 := Nat.mod_lt b (by decide)
  rw [editByte_eq_clearBits (clearsByteBits_bitMask hmod) hmod, ← Nat.add_assoc, Nat.div_add_mod]

/-- Settles O30, by induction on the number of bits: each step clears the bit before the rest of the range. -/
theorem clearLoopHasTheEffect : Obligations.ClearLoopHasTheEffect := by
  intro bs b n
  induction n generalizing bs b with
  | zero => exact (clearBits_of_empty bs b.le_refl).symm
  | succ n ih =>
    calc clearLoop bs b (n + 1)
        = clearLoop (clearBits bs b (b + 1)) (b + 1) n := congrArg (clearLoop · (b + 1) n) (editByte_bitMask bs b)
      _ = clearBits (clearBits bs b (b + 1)) (b + 1) (b + 1 + n) := ih _ _
      _ = clearBits bs b (b + (n + 1)) := by
        rw [clearBits_clearBits bs (by omega) (by omega), Nat.add_assoc, Nat.add_comm 1 n]

/-! ## The datapath -/

/-- The bulk zero clears the whole bytes `[first, last)`. -/
theorem bulkZero_eq_clearBits (bs : List Byte) {first n last : Nat} (hlast : first + n = last) :
    bulkZero bs first n = clearBits bs (8 * first) (8 * last) := by
  induction n generalizing bs first with
  | zero =>
    obtain rfl := hlast
    exact (clearBits_of_empty bs le_rfl).symm
  | succ n ih =>
    rw [bulkZero, ih _ (by omega), editByte_eq_clearBits clearsByteBits_zero le_rfl, Nat.add_zero, Nat.mul_add_one,
      clearBits_clearBits bs (by omega) (by omega)]

theorem le_of_window_eq_zero {lo hi : Nat} (hhi : hi ≤ 8) (h : lowMask hi &&& ~~~(lowMask lo) = 0) : hi ≤ lo := by
  by_contra hlt
  have hlo : lo < 8 := by omega
  have hbit : (lowMask hi &&& ~~~(lowMask lo)).getLsbD lo = false := h ▸ BitVec.getLsbD_zero
  rw [BitVec.getLsbD_and, BitVec.getLsbD_not, lowMask_getLsbD _ hlo, lowMask_getLsbD _ hlo] at hbit
  simp [hlo] at hbit
  omega

section
variable (bs : List Byte) (k : Nat)

/-- A range within byte `k`; the byte is left alone where the mask is empty. -/
theorem clearWindow_eq_clearBits {lo hi : Nat} (hhi : hi ≤ 8) :
    (if lowMask hi &&& ~~~(lowMask lo) = 0 then bs
      else editByte bs k fun x => x &&& ~~~(lowMask hi &&& ~~~(lowMask lo)))
      = clearBits bs (8 * k + lo) (8 * k + hi) := by
  split
  next hempty => exact (clearBits_of_empty bs (Nat.add_le_add_left (le_of_window_eq_zero hhi hempty) _)).symm
  next => exact editByte_eq_clearBits (clearsByteBits_window lo hi) hhi bs k

/-- The head: the bits from `lo` of byte `k` on, up to the first whole byte of the range. -/
theorem clearHead_eq_clearBits (lo : Nat) :
    (if lo = 0 then bs else editByte bs k fun x => x &&& lowMask lo)
      = clearBits bs (8 * k + lo) (8 * if lo = 0 then k else k + 1) := by
  split
  next => exact (clearBits_of_empty bs (Nat.le_add_right _ _)).symm
  next => exact editByte_eq_clearBits (clearsByteBits_head lo) le_rfl bs k

/-- The tail: the bits below `hi` of byte `k`. -/
theorem clearTail_eq_clearBits {hi : Nat} (hhi : hi ≤ 8) :
    (if hi = 0 then bs else editByte bs k fun x => x &&& ~~~(lowMask hi)) = clearBits bs (8 * k) (8 * k + hi) := by
  split
  next hempty => exact (clearBits_of_empty bs (by omega)).symm
  next => exact editByte_eq_clearBits (clearsByteBits_tail hi) hhi bs k

end

/-- Settles O27: a range within one byte is one mask; otherwise head, bulk zero and tail clear adjacent ranges. -/
theorem rangeClearDatapathHasTheEffect : Obligations.RangeClearDatapathHasTheEffect := by
  intro bs b e hbe _
  have hb : 8 * (b / 8) + b % 8 = b := Nat.div_add_mod b 8
  have he : 8 * (e / 8) + e % 8 = e := Nat.div_add_mod e 8
  have hhi : e % 8 ≤ 8 := (Nat.mod_lt e (by decide)).le
  rw [rangeClearDatapath]
  split
  next hsame => rw [clearWindow_eq_clearBits bs _ hhi, hb, hsame, he]
  next hne =>
    generalize hfirst : (if b % 8 = 0 then b / 8 else b / 8 + 1) = first
    obtain ⟨hlast, hhead⟩ : first ≤ e / 8 ∧ b ≤ 8 * first := by split at hfirst <;> omega
    rw [clearTail_eq_clearBits _ _ hhi, bulkZero_eq_clearBits _ (Nat.add_sub_of_le hlast), clearHead_eq_clearBits, hb,
      hfirst, he, clearBits_clearBits bs hhead (by omega), clearBits_clearBits bs (by omega) (by omega)]

/-! ## The commands past their checks -/

section
variable {s : State}

theorem execClearRange_of_present (hp : s.present = true) :
    execClearRange s = .next
      (if s.larg1.toNat < s.larg0.toNat ∨ s.capacity.toNat < s.larg1.toNat then s.raise .precond
        else (s.withBmem (clearBits s.bmem s.larg0.toNat s.larg1.toNat)).complete
          (zextW (s.larg1.toNat - s.larg0.toNat)) 0) :=
  congrArg _ (if_pos hp)

theorem execClearRange_of_inBounds (hp : s.present = true) (hle : s.larg0.toNat ≤ s.larg1.toNat)
    (hin : s.larg1.toNat ≤ s.capacity.toNat) :
    execClearRange s = .next
      ((s.withBmem (clearBits s.bmem s.larg0.toNat s.larg1.toNat)).complete (s.larg1 - s.larg0) 0) := by
  have hresult : zextW (s.larg1.toNat - s.larg0.toNat) = s.larg1 - s.larg0 := by
    rw [← BitVec.toNat_sub_of_le hle, zextW_toNat]
  rw [execClearRange_of_present hp, if_neg (by omega), hresult]

theorem execClearN_of_present (hp : s.present = true) :
    execClearN s = .next
      (if s.capacity.toNat < s.larg0.toNat + s.larg1.toNat then s.raise .precond
        else (s.withBmem (clearBits s.bmem s.larg0.toNat (s.larg0.toNat + s.larg1.toNat))).complete
          (zextW s.larg1.toNat) 0) :=
  congrArg _ (if_pos hp)

theorem execClearN_of_inBounds (hp : s.present = true) (hin : s.larg0.toNat + s.larg1.toNat ≤ s.capacity.toNat) :
    execClearN s = .next
      ((s.withBmem (clearBits s.bmem s.larg0.toNat (s.larg0.toNat + s.larg1.toNat))).complete s.larg1 0) := by
  rw [execClearN_of_present hp, if_neg (Nat.not_lt.2 hin), zextW_toNat]

theorem execClearAll_of_present (hp : s.present = true) :
    execClearAll s = .next ((s.withBmem (zeroBytes s.bmem (s.capacity.toNat / 8))).complete s.size 0) :=
  congrArg _ (if_pos hp)

end

/-- Zeroing as many bytes as the buffer has leaves no bit set (42_range_clear.md R143). -/
theorem bufBit_zeroBytes_of_length_le {bs : List Byte} {n : Nat} (h : bs.length ≤ n) (i : Nat) :
    bufBit (zeroBytes bs n) i = false := by
  rcases Nat.lt_or_ge (i / 8) bs.length with hin | hout
  · rw [bufBit, zeroBytes, bufByte_mapBytesFrom _ _ hin, if_pos (hin.trans_le h)]
    exact BitVec.getLsbD_zero
  · exact bufBit_of_ge (by rw [zeroBytes_length]; omega)

/-! ## The rules -/

/-- Settles O20, by the presence check and the bounds of the range. -/
theorem clearRangeRule : Obligations.ClearRangeRule := by
  refine ⟨(decodesExactlyTheEncodings _ _).2 rfl, fun s => ⟨exec_failsWith_state .clearRange s,
    fun hp hout => ?_, fun hp hle hin => ?_⟩⟩
  · exact ⟨_, (execClearRange_of_present hp).trans (congrArg _ (if_pos hout)), s.raise_failsWith .precond⟩
  · exact ⟨_, execClearRange_of_inBounds hp hle hin, State.complete_completesWith _ 0, ⟨rfl, rfl, rfl, rfl⟩,
      fun _ => rfl, clearBits_length _ _ _, bufBit_clearBits _ _ _⟩

/-- Settles O21, by the presence check and the unbounded sum. -/
theorem clearNRule : Obligations.ClearNRule := by
  refine ⟨(decodesExactlyTheEncodings _ _).2 rfl, fun s => ⟨exec_failsWith_state .clearN s,
    fun hp hout => ?_, fun hp hin => ?_⟩⟩
  · exact ⟨_, (execClearN_of_present hp).trans (congrArg _ (if_pos hout)), s.raise_failsWith .precond⟩
  · exact ⟨_, execClearN_of_inBounds hp hin, State.complete_completesWith _ 0, ⟨rfl, rfl, rfl, rfl⟩,
      fun _ => rfl, clearBits_length _ _ _, bufBit_clearBits _ _ _⟩

/-- Settles O22, by the presence check: within `CAPACITY` both commands clear the same range, and `end - begin` is the
count. -/
theorem clearNIsClearRange : Obligations.ClearNIsClearRange := by
  intro s t e he hin h
  rcases Bool.eq_false_or_eq_true s.present with hp | hp
  · have hresult : e - s.larg0 = s.larg1 := by
      apply BitVec.eq_of_toNat_eq
      rw [BitVec.toNat_sub_of_le (BitVec.le_def.2 (by omega)), he, Nat.add_sub_cancel_left]
    cases (execClearN_of_inBounds hp (he ▸ hin)).symm.trans h
    have hrange := execClearRange_of_inBounds (s := { s with larg1 := e }) hp (he ▸ Nat.le_add_right _ _) hin
    simp only [he, hresult] at hrange
    exact hrange
  · have habsent : exec .clearN s = .next (s.raise .state) := exec_of_presenceFails hp
    cases habsent.symm.trans h
    exact exec_of_presenceFails (i := .clearRange) (s := { s with larg1 := e }) hp

/-- Settles O23, by the presence check; `CAPACITY` counts all the bits of the buffer, by the invariant. -/
theorem clearAllRule : Obligations.ClearAllRule := by
  refine ⟨(decodesExactlyTheEncodings _ _).2 rfl, fun s => ⟨exec_failsWith_state .clearAll s, fun hp hs => ?_⟩⟩
  exact ⟨_, execClearAll_of_present hp, State.complete_completesWith _ 0, ⟨rfl, rfl, rfl, rfl⟩, fun _ => rfl,
    zeroBytes_length _ _, bufBit_zeroBytes_of_length_le hs.bmemLength.le⟩

end Sys2Proof.Machine
end

section
/-! The Bulk Bit Codec (43_bulk_codec.md R160 to R164). The write loop and the write shifter are composed of rewrites of
adjacent ranges, cut at byte boundaries; the read loop and the read shifter OR the buffer's bits into a byte sequence. The
rules of the two commands are those of a race (20_memory.md R63) in which no byte has held another value. -/

namespace Sys2Proof.Machine

/-! ## Rewriting adjacent ranges -/

/-- A rewrite is composed of the rewrite of its bits below `mid` and that of its bits from `mid` on; either may be
empty. -/
theorem rewriteBits_rewriteBits (bs : List Byte) {lo mid n n₁ n₂ : Nat} {v v₁ v₂ : Nat → Bool} (hmid : lo ≤ mid)
    (hn₁ : n₁ = min n (mid - lo)) (hn₂ : n₂ = n - (mid - lo)) (hv₁ : ∀ j < n₁, v₁ j = v j)
    (hv₂ : ∀ j < n₂, v₂ j = v (mid - lo + j)) :
    rewriteBits (rewriteBits bs lo n₁ v₁) mid n₂ v₂ = rewriteBits bs lo n v := by
  refine eq_of_bufBit_eq (by simp only [rewriteBits_length]) fun i => ?_
  simp only [bufBit_rewriteBits, rewriteBits_length]
  rcases Nat.lt_or_ge i mid with hlow | hhigh
  · rw [if_neg (by omega)]
    by_cases hin : i < 8 * bs.length ∧ lo ≤ i ∧ i < lo + n₁
    · rw [if_pos hin, if_pos (by omega), hv₁ _ (by omega)]
    · rw [if_neg hin, if_neg (by omega)]
  · by_cases hin : i < 8 * bs.length ∧ mid ≤ i ∧ i < mid + n₂
    · rw [if_pos hin, if_pos (by omega), hv₂ _ (by omega)]
      congr 1
      omega
    · rw [if_neg hin, if_neg (by omega), if_neg (by omega)]

theorem rewriteBits_zero (bs : List Byte) (lo : Nat) (v : Nat → Bool) : rewriteBits bs lo 0 v = bs :=
  eq_of_bufBit_eq (rewriteBits_length _ _ _ _) fun i => by rw [bufBit_rewriteBits, if_neg (by omega)]

/-- A rewrite depends on the values of its own bits only. -/
theorem rewriteBits_congr (bs : List Byte) (lo : Nat) {n : Nat} {v w : Nat → Bool} (h : ∀ j < n, v j = w j) :
    rewriteBits bs lo n v = rewriteBits bs lo n w :=
  eq_of_bufBit_eq (by simp only [rewriteBits_length]) fun i => by
    rw [bufBit_rewriteBits, bufBit_rewriteBits]
    split
    next hin => exact h _ (by omega)
    next => rfl

/-! ## Rewriting bits of one byte -/

/-- Every bit of the buffer after one byte is edited; an edit beyond the buffer does nothing (log 17). -/
theorem bufBit_editByte (bs : List Byte) (k : Nat) (f : Byte → Byte) (i : Nat) :
    bufBit (editByte bs k f) i =
      if i / 8 = k ∧ k < bs.length then (f (bufByte bs k)).getLsbD (i % 8) else bufBit bs i := by
  split
  next hin =>
    obtain ⟨rfl, hk⟩ := hin
    simp [bufBit, bufByte, editByte, List.getD_eq_getElem?_getD, hk]
  next hout =>
    rcases Nat.lt_or_ge k bs.length with hk | hk
    · have hne : k ≠ i / 8 := fun h => hout ⟨h.symm, hk⟩
      simp [bufBit, bufByte, editByte, List.getD_eq_getElem?_getD, List.getElem?_set_ne hne]
    · rw [editByte, List.set_eq_of_length_le hk]

/-- The byte operation `f` gives the bits `[lo, lo + n)` of a byte the values `v 0`, `v 1`, … and keeps the others. -/
def RewritesByteBits (f : Byte → Byte) (lo n : Nat) (v : Nat → Bool) : Prop :=
  ∀ (x : Byte) (j : Nat), j < 8 → (f x).getLsbD j = if lo ≤ j ∧ j < lo + n then v (j - lo) else x.getLsbD j

/-- Rewriting bits of byte `k` rewrites a range of the buffer; beyond the buffer both do nothing. -/
theorem editByte_eq_rewriteBits {f : Byte → Byte} {lo n : Nat} {v : Nat → Bool} (hf : RewritesByteBits f lo n v)
    (hn : lo + n ≤ 8) (bs : List Byte) (k : Nat) : editByte bs k f = rewriteBits bs (8 * k + lo) n v := by
  refine eq_of_bufBit_eq (by simp only [editByte_length, rewriteBits_length]) fun i => ?_
  rw [bufBit_editByte, bufBit_rewriteBits]
  split
  next hin =>
    obtain ⟨rfl, hk⟩ := hin
    rw [hf _ _ (Nat.mod_lt i (by decide)), ← bufBit]
    refine if_congr (by omega) (congrArg v (by omega)) rfl
  next hout => rw [if_neg (by omega)]

/-! ## The loops -/

/-- The loops' `(b >> p) & 1` is bit `p` of the byte. -/
theorem shiftRight_and_one (b : Byte) (p : Nat) : (b >>> p) &&& 1 = (BitVec.ofBool (b.getLsbD p)).setWidth 8 :=
  byte_ext fun j hj => by
    have hone : (1 : Byte).getLsbD j = decide (j = 0) := by simp [hj]
    have hbit : ((BitVec.ofBool (b.getLsbD p)).setWidth 8).getLsbD j = (decide (j = 0) && b.getLsbD p) := by
      simp [BitVec.getLsbD_ofBool, hj]
    rw [BitVec.getLsbD_and, BitVec.getLsbD_ushiftRight, hone, hbit]
    by_cases h : j = 0 <;> simp [h]

/-- The mask formula of one bit rewrites that bit alone. -/
theorem rewritesByteBits_bit (v : Bool) {p : Nat} (hp : p < 8) :
    RewritesByteBits (fun x => (x &&& ~~~((1 : Byte) <<< p)) ||| (BitVec.ofBool v).setWidth 8 <<< p) p 1 fun _ => v :=
  fun x _ hj => (setBit_getLsbD x v hp hj).trans (if_congr (by omega) rfl rfl)

/-- The write loop from sequence bit `j` on rewrites the bits from `index + j` on (43_bulk_codec.md R160). -/
theorem writeLoop_eq_rewriteBits (source : List Byte) (index n : Nat) (bs : List Byte) (j : Nat) :
    writeLoop source index bs j n = rewriteBits bs (index + j) n fun i => bufBit source (j + i) := by
  induction n generalizing bs j with
  | zero => exact (rewriteBits_zero _ _ _).symm
  | succ n ih =>
    have hmod : (index + j) % 8 < 8 := Nat.mod_lt _ (by decide)
    rw [writeLoop, ih, shiftRight_and_one, ← bufBit, editByte_eq_rewriteBits (rewritesByteBits_bit _ hmod) hmod,
      Nat.div_add_mod]
    exact rewriteBits_rewriteBits bs (by omega) (by omega) (by omega) (fun i hi => by rw [Nat.lt_one_iff.1 hi]; rfl)
      fun i _ => congrArg _ (by omega)

/-- One bit shifted into place and ORed into a byte. -/
theorem orBit_getLsbD (x : Byte) (v : Bool) {p j : Nat} (hj : j < 8) :
    (x ||| (BitVec.ofBool v).setWidth 8 <<< p).getLsbD j = (x.getLsbD j || (decide (j = p) && v)) := by
  rw [BitVec.getLsbD_or, BitVec.getLsbD_shiftLeft, BitVec.getLsbD_setWidth, BitVec.getLsbD_ofBool]
  congr 1
  rcases Nat.lt_trichotomy j p with h | rfl | h
  · simp [h, Nat.ne_of_lt h]
  · simp [hj]
  · simp [show ¬j - p = 0 by omega, Nat.ne_of_gt h]

/-- One step of the read loop ORs one bit into the destination. -/
theorem bufBit_editByte_orBit {dest : List Byte} {j : Nat} (hj : j < 8 * dest.length) (v : Bool) (i : Nat) :
    bufBit (editByte dest (j / 8) fun x => x ||| (BitVec.ofBool v).setWidth 8 <<< (j % 8)) i =
      (bufBit dest i || (decide (i = j) && v)) := by
  rw [bufBit_editByte, orBit_getLsbD _ _ (Nat.mod_lt i (by decide))]
  split
  next hin => rw [← hin.1, ← bufBit, decide_eq_decide.2 (by omega : i % 8 = j % 8 ↔ i = j)]
  next hout => rw [decide_eq_false (by rintro rfl; omega), Bool.false_and, Bool.or_false]

/-- The read loop from sequence bit `j` on ORs the buffer's bits from `index + j` on into the destination
(43_bulk_codec.md R162). -/
theorem bufBit_readLoop (bs : List Byte) (index n : Nat) (dest : List Byte) (j : Nat) (hin : j + n ≤ 8 * dest.length)
    (i : Nat) :
    bufBit (readLoop bs index dest j n) i =
      (bufBit dest i || (decide (j ≤ i ∧ i < j + n) && bufBit bs (index + i))) := by
  induction n generalizing dest j with
  | zero => simp [readLoop, show ¬(j ≤ i ∧ i < j) by omega]
  | succ n ih =>
    rw [readLoop, ih _ _ (by rw [editByte_length]; omega), shiftRight_and_one, ← bufBit,
      bufBit_editByte_orBit (by omega), Bool.or_assoc]
    congr 1
    by_cases hij : i = j
    · simp [hij]
    · rw [decide_eq_false hij, Bool.false_and, Bool.false_or,
        decide_eq_decide.2 (by omega : (j + 1 ≤ i ∧ i < j + 1 + n) ↔ (j ≤ i ∧ i < j + (n + 1)))]

/-- Settles O31, by the loops started at sequence bit 0. -/
theorem codecLoopsHaveTheEffects : Obligations.CodecLoopsHaveTheEffects := by
  refine ⟨fun bs source index n => ?_, fun bs dest index n hn j => ?_⟩
  · simpa using writeLoop_eq_rewriteBits source index n bs 0
  · simpa using bufBit_readLoop bs index n dest 0 (by omega) j

/-! ## The write shifter -/

theorem bufBit_cons (b : Byte) (bs : List Byte) (i : Nat) :
    bufBit (b :: bs) i = if i < 8 then b.getLsbD i else bufBit bs (i - 8) := by
  split
  next h => rw [bufBit, Nat.div_eq_of_lt h, Nat.mod_eq_of_lt h]; rfl
  next h => rw [bufBit, bufBit, show i / 8 = (i - 8) / 8 + 1 by omega, show i % 8 = (i - 8) % 8 by omega]; rfl

section
variable (v : Byte) {s : Nat}

/-- The lower byte of a whole-byte stride takes the low bits of the source byte. -/
theorem rewritesByteBits_strideLow (hs : s < 8) :
    RewritesByteBits (fun x => (x &&& lowMask s) ||| (v <<< s)) s (8 - s) v.getLsbD := fun x j hj => by
  simp only [BitVec.getLsbD_or, BitVec.getLsbD_and, BitVec.getLsbD_shiftLeft, lowMask_getLsbD _ hj]
  rcases Nat.lt_or_ge j s with hlow | hhigh
  · simp [hlow, Nat.not_le.2 hlow]
  · simp [hj, hhigh, Nat.not_lt.2 hhigh, show j < s + (8 - s) by omega]

/-- The upper byte of a whole-byte stride takes the bits of the source byte that are left. -/
theorem rewritesByteBits_strideHigh (hs : s < 8) :
    RewritesByteBits (fun x => (x &&& ((0xFF : Byte) <<< s)) ||| (v >>> (8 - s))) 0 s
      fun j => v.getLsbD (8 - s + j) := fun x j hj => by
  have hones : (0xFF : Byte).getLsbD (j - s) = true := by
    have hall : ∀ p : Fin 8, (0xFF : Byte).getLsbD p = true := by decide
    exact hall ⟨j - s, by omega⟩
  simp only [BitVec.getLsbD_or, BitVec.getLsbD_and, BitVec.getLsbD_shiftLeft, BitVec.getLsbD_ushiftRight, hones]
  rcases Nat.lt_or_ge j s with hlow | hhigh
  · simp [hlow]
  · simp [hj, Nat.not_lt.2 hhigh, BitVec.getLsbD_of_ge v (8 - s + j) (by omega)]

theorem writeStride_eq_rewriteBits (hs : s < 8) (bs : List Byte) (k : Nat) :
    writeStride bs s k v = rewriteBits bs (8 * k + s) 8 v.getLsbD := by
  have hupper (cs : List Byte) :
      (if s = 0 then cs else editByte cs (k + 1) fun x => (x &&& ((0xFF : Byte) <<< s)) ||| (v >>> (8 - s)))
        = rewriteBits cs (8 * (k + 1)) s fun j => v.getLsbD (8 - s + j) := by
    split
    next hzero => rw [hzero, rewriteBits_zero]
    next => exact editByte_eq_rewriteBits (rewritesByteBits_strideHigh v hs) (by omega) cs (k + 1)
  rw [writeStride, hupper, editByte_eq_rewriteBits (rewritesByteBits_strideLow v hs) (by omega)]
  exact rewriteBits_rewriteBits bs (by omega) (by omega) (by omega) (fun _ _ => rfl) fun _ _ => congrArg _ (by omega)

end

section
variable (s r : Nat) (v : Byte)

/-- The window of a partial stride: the bits `[s, s + r)` of two bytes (43_bulk_codec.md R161). -/
def tailMask : BitVec 16 := BitVec.ofNat 16 ((2 ^ r - 1) <<< s)

/-- The source bits of a partial stride, shifted into its window (43_bulk_codec.md R161). -/
def tailSource : BitVec 16 := (v &&& lowMask r).setWidth 16 <<< s

theorem writeTail_eq (bs : List Byte) (k : Nat) :
    writeTail bs s k r v =
      let lower := editByte bs k fun x => (x &&& ~~~((tailMask s r).setWidth 8)) ||| (tailSource s r v).setWidth 8
      if tailMask s r >>> 8 = 0 then lower
      else editByte lower (k + 1) fun x =>
        (x &&& ~~~((tailMask s r >>> 8).setWidth 8)) ||| (tailSource s r v >>> 8).setWidth 8 := rfl

end

section
variable {s r : Nat} (v : Byte)

theorem tailMask_getLsbD {j : Nat} (hj : j < 16) : (tailMask s r).getLsbD j = decide (s ≤ j ∧ j < s + r) := by
  rw [tailMask, BitVec.getLsbD_ofNat, Nat.testBit_shiftLeft, Nat.testBit_two_pow_sub_one, decide_eq_true hj,
    Bool.true_and, ← Bool.decide_and, decide_eq_decide]
  omega

theorem tailSource_getLsbD {j : Nat} (hj : j < 16) :
    (tailSource s r v).getLsbD j = (decide (s ≤ j ∧ j < s + r) && v.getLsbD (j - s)) := by
  rw [tailSource, BitVec.getLsbD_shiftLeft, BitVec.getLsbD_setWidth, BitVec.getLsbD_and]
  rcases Nat.lt_or_ge (j - s) 8 with hin | hout
  · rw [lowMask_getLsbD _ hin]
    by_cases hlow : j < s
    · simp [hlow, Nat.not_le.2 hlow]
    · simp [hj, hlow, Nat.not_lt.1 hlow, show j - s < 16 by omega, show j < s + r ↔ j - s < r by omega, Bool.and_comm]
  · simp [BitVec.getLsbD_of_ge v _ hout]

theorem rewritesByteBits_tailLow :
    RewritesByteBits (fun x => (x &&& ~~~((tailMask s r).setWidth 8)) ||| (tailSource s r v).setWidth 8)
      s (min r (8 - s)) v.getLsbD := fun x j hj => by
  rw [BitVec.getLsbD_or, BitVec.getLsbD_and, BitVec.getLsbD_not, BitVec.getLsbD_setWidth, BitVec.getLsbD_setWidth,
    tailMask_getLsbD (by omega), tailSource_getLsbD v (by omega),
    if_congr (by omega : (s ≤ j ∧ j < s + min r (8 - s)) ↔ (s ≤ j ∧ j < s + r)) rfl rfl]
  by_cases h : s ≤ j ∧ j < s + r <;> simp [h, hj]

theorem rewritesByteBits_tailHigh (hs : s < 8) :
    RewritesByteBits (fun x => (x &&& ~~~((tailMask s r >>> 8).setWidth 8)) ||| (tailSource s r v >>> 8).setWidth 8)
      0 (r - (8 - s)) fun j => v.getLsbD (8 - s + j) := fun x j hj => by
  rw [BitVec.getLsbD_or, BitVec.getLsbD_and, BitVec.getLsbD_not, BitVec.getLsbD_setWidth, BitVec.getLsbD_setWidth,
    BitVec.getLsbD_ushiftRight, BitVec.getLsbD_ushiftRight, tailMask_getLsbD (by omega),
    tailSource_getLsbD v (by omega), Nat.sub_zero, show 8 + j - s = 8 - s + j by omega,
    if_congr (by omega : (0 ≤ j ∧ j < 0 + (r - (8 - s))) ↔ (s ≤ 8 + j ∧ 8 + j < s + r)) rfl rfl]
  by_cases h : s ≤ 8 + j ∧ 8 + j < s + r <;> simp [h, hj]

/-- Where the window has no upper byte, the lower one takes all the bits. -/
theorem le_of_tailMask_high_eq_zero (hs : s < 8) (h : tailMask s r >>> 8 = 0) : r ≤ 8 - s := by
  have hbit : (tailMask s r >>> 8).getLsbD 0 = false := h ▸ BitVec.getLsbD_zero
  rw [BitVec.getLsbD_ushiftRight, tailMask_getLsbD (by decide)] at hbit
  have hout := of_decide_eq_false hbit
  omega

theorem writeTail_eq_rewriteBits (hs : s < 8) (hr : r < 8) (bs : List Byte) (k : Nat) :
    writeTail bs s k r v = rewriteBits bs (8 * k + s) r v.getLsbD := by
  have hupper (cs : List Byte) :
      (if tailMask s r >>> 8 = 0 then cs
        else editByte cs (k + 1) fun x =>
          (x &&& ~~~((tailMask s r >>> 8).setWidth 8)) ||| (tailSource s r v >>> 8).setWidth 8)
        = rewriteBits cs (8 * (k + 1)) (r - (8 - s)) fun j => v.getLsbD (8 - s + j) := by
    split
    next hnone => rw [Nat.sub_eq_zero_of_le (le_of_tailMask_high_eq_zero hs hnone), rewriteBits_zero]
    next => exact editByte_eq_rewriteBits (rewritesByteBits_tailHigh v hs) (by omega) cs (k + 1)
  rw [writeTail_eq, hupper, editByte_eq_rewriteBits (rewritesByteBits_tailLow v) (by omega)]
  exact rewriteBits_rewriteBits bs (by omega) (by omega) (by omega) (fun _ _ => rfl) fun _ _ => congrArg _ (by omega)

end

/-- The shifter rewrites the `r` bits from bit `s` of byte `k` on, one stride for each source byte. -/
theorem writeShifter_eq_rewriteBits {s : Nat} (hs : s < 8) (source : List Byte) {k r : Nat} (bs : List Byte)
    (hlength : source.length = (r + 7) / 8) :
    writeShifter s source k r bs = rewriteBits bs (8 * k + s) r fun j => bufBit source j := by
  induction source generalizing k r bs with
  | nil =>
    obtain rfl : r = 0 := by rw [List.length_nil] at hlength; omega
    exact (rewriteBits_zero _ _ _).symm
  | cons v vs ih =>
    rw [List.length_cons] at hlength
    have hfirst {n : Nat} (hn : n ≤ 8) : ∀ j < n, v.getLsbD j = bufBit (v :: vs) j := fun j hj => by
      rw [bufBit_cons, if_pos (by omega)]
    rw [writeShifter]
    split
    next hwhole =>
      rw [writeStride_eq_rewriteBits v hs, ih _ (by omega)]
      refine rewriteBits_rewriteBits bs (by omega) (by omega) (by omega) (hfirst le_rfl) fun j _ => ?_
      rw [bufBit_cons, if_neg (by omega)]
      congr 1
      omega
    next hpartial =>
      rw [if_pos (by omega), writeTail_eq_rewriteBits v hs (by omega)]
      exact rewriteBits_congr bs _ (hfirst (by omega))

/-- Settles O28: the shifter starts at bit `index mod 8` of byte `index / 8`. -/
theorem writeDatapathHasTheEffect : Obligations.WriteDatapathHasTheEffect := by
  intro bs source index n _ hlength
  rw [writeDatapath, writeShifter_eq_rewriteBits (Nat.mod_lt _ (by decide)) source bs hlength, Nat.div_add_mod]

/-! ## The read shifter -/

/-- Bit `j` of the buffer's bits from bit `s` of byte `k` on, fetched from two bytes; `high` is the part of the next byte,
which is left out only where bit `j` does not need it. -/
theorem fetched_getLsbD (bs : List Byte) {s k j : Nat} {high : Byte} (hs : s < 8) (hj : j < 8)
    (hhigh : high = bufByte bs (k + 1) <<< (8 - s) ∨ high = 0 ∧ s + j < 8) :
    (bufByte bs k >>> s ||| high).getLsbD j = bufBit bs (8 * k + s + j) := by
  rw [BitVec.getLsbD_or, BitVec.getLsbD_ushiftRight, bufBit]
  rcases Nat.lt_or_ge (s + j) 8 with hlow | hnext
  · have hzero : high.getLsbD j = false := by
      rcases hhigh with rfl | ⟨rfl, -⟩
      · simp [show j < 8 - s by omega]
      · exact BitVec.getLsbD_zero
    rw [hzero, Bool.or_false, show (8 * k + s + j) / 8 = k by omega, show (8 * k + s + j) % 8 = s + j by omega]
  · obtain rfl := hhigh.resolve_right fun h => by omega
    rw [BitVec.getLsbD_of_ge _ _ hnext, BitVec.getLsbD_shiftLeft, show (8 * k + s + j) / 8 = k + 1 by omega,
      show (8 * k + s + j) % 8 = j - (8 - s) by omega]
    simp [hj, show ¬j < 8 - s by omega]

theorem readShifter_length (bs : List Byte) (s : Nat) (dest : List Byte) (k r : Nat) :
    (readShifter bs s dest k r).length = dest.length := by
  induction dest generalizing k r with
  | nil => rfl
  | cons d ds ih =>
    rw [readShifter]
    split
    next => simp only [List.length_cons, ih]
    next => split <;> rfl

/-- The shifter ORs the `r` bits from bit `s` of byte `k` on into the destination, one stride for each byte of it. -/
theorem bufBit_readShifter (bs : List Byte) {s : Nat} (hs : s < 8) (dest : List Byte) {k r : Nat}
    (hlength : dest.length = (r + 7) / 8) (j : Nat) :
    bufBit (readShifter bs s dest k r) j = (bufBit dest j || (decide (j < r) && bufBit bs (8 * k + s + j))) := by
  induction dest generalizing k r j with
  | nil =>
    obtain rfl : r = 0 := by rw [List.length_nil] at hlength; omega
    simp [readShifter]
  | cons d ds ih =>
    rw [List.length_cons] at hlength
    rw [readShifter]
    split
    next hwhole =>
      rw [bufBit_cons, bufBit_cons]
      split
      next hj =>
        rw [BitVec.getLsbD_or, fetched_getLsbD bs hs hj, decide_eq_true (by omega : j < r), Bool.true_and]
        split
        next hzero => exact .inr ⟨rfl, by omega⟩
        next => exact .inl rfl
      next hj =>
        rw [ih (by omega), decide_eq_decide.2 (by omega : j - 8 < r - 8 ↔ j < r),
          show 8 * (k + 1) + s + (j - 8) = 8 * k + s + j by omega]
    next hpartial =>
      rw [if_pos (by omega), bufBit_cons, bufBit_cons]
      split
      next hj =>
        rw [BitVec.getLsbD_or, BitVec.getLsbD_and, lowMask_getLsbD _ hj, Bool.and_comm]
        congr 1
        rcases Nat.lt_or_ge j r with hin | hout
        · rw [fetched_getLsbD bs hs hj]
          split
          next => exact .inl rfl
          next => exact .inr ⟨rfl, by omega⟩
        · rw [decide_eq_false (Nat.not_lt.2 hout), Bool.false_and, Bool.false_and]
      next hj => rw [decide_eq_false (by omega), Bool.false_and, Bool.or_false]

/-- Settles O29: the shifter starts at bit `index mod 8` of byte `index / 8`. -/
theorem readDatapathHasTheEffect : Obligations.ReadDatapathHasTheEffect := by
  intro bs dest index n _ hlength
  refine ⟨readShifter_length _ _ _ _ _, fun j => ?_⟩
  rw [readDatapath, bufBit_readShifter bs (Nat.mod_lt _ (by decide)) dest hlength, Nat.div_add_mod]

/-! ## The checks -/

theorem State.codecError_of_outOfBounds {s : State} (hp : s.present = true)
    (hb : s.capacity.toNat < s.larg0.toNat + s.larg2.toNat) : s.codecError = some .precond := by
  rw [State.codecError, if_pos hp, if_pos hb]

section
variable {i : Instr} {s : State}

theorem exec_failsWith_precond (hi : i = .write ∨ i = .read) (hp : s.present = true)
    (hb : s.capacity.toNat < s.larg0.toNat + s.larg2.toNat) : ∃ t, exec i s = .next t ∧ s.FailsWith t .precond :=
  ⟨_, exec_of_codecError hi (State.codecError_of_outOfBounds hp hb), s.raise_failsWith .precond⟩

theorem exec_failsWith_xfault (hi : i = .write ∨ i = .read) (hp : s.present = true)
    (hb : s.larg0.toNat + s.larg2.toNat ≤ s.capacity.toNat)
    (hx : ∃ k < ceil8 s.larg2.toNat, addressRefused s (s.larg1.toNat + k)) :
    ∃ t, exec i s = .next t ∧ s.FailsWith t .xfault :=
  ⟨_, exec_of_codecError hi (State.codecError_of_refused hp hb hx), s.raise_failsWith .xfault⟩

/-- The codec succeeds only where all its checks pass. -/
theorem checked_of_exec_ok {t : State} (hi : i = .write ∨ i = .read) (h : exec i s = .next t) (hok : t.err = .ok) :
    s.present = true ∧ s.larg0.toNat + s.larg2.toNat ≤ s.capacity.toNat ∧
      ∀ k < ceil8 s.larg2.toNat, ¬addressRefused s (s.larg1.toNat + k) := by
  have hnone : s.codecError = none := by
    cases hc : s.codecError with
    | none => rfl
    | some e =>
      cases (exec_of_codecError hi hc).symm.trans h
      exact absurd hok (State.codecError_ne_ok hc)
  rcases s.codecError_cases with ⟨_, hc⟩ | ⟨_, _, hc⟩ | ⟨_, _, _, hc⟩ | ⟨hp, hb, hx, _⟩
  · cases hnone.symm.trans hc
  · cases hnone.symm.trans hc
  · cases hnone.symm.trans hc
  · exact ⟨hp, hb, fun k hk hrefused => hx ⟨k, hk, hrefused⟩⟩

end

/-! ## The rules -/

/-- Without a race a byte has held no other value (20_memory.md R63). -/
theorem State.HeldValue.eq_read {s : State} {a : Nat} {v : Byte} (h : s.HeldValue a v) (hraced : s.raced = []) :
    v = Memory.read s.xmem a :=
  h.resolve_right fun hmem => by rw [hraced] at hmem; cases hmem

/-- Settles O24, by the checks in their order; past them each source byte has its one value. -/
theorem writeRule : Obligations.WriteRule := by
  refine ⟨(decodesExactlyTheEncodings _ _).2 rfl, fun s => ⟨exec_failsWith_state .write s,
    exec_failsWith_precond (.inl rfl), exec_failsWith_xfault (.inl rfl), fun hp hs hb hx hraced => ?_⟩⟩
  obtain ⟨t, hexec, hcompletes, hbook, hxmem, hlength, hrange, houtside⟩ := racedWriteTakesHeldValues s hs hp hb hx
  refine ⟨t, hexec, hcompletes, hbook, hxmem, hlength, fun j hj => ?_, houtside⟩
  obtain ⟨v, hheld, hbits⟩ := hrange (j / 8) (by omega)
  have hj' : 8 * (j / 8) + j % 8 = j := Nat.div_add_mod j 8
  have hbit := hbits (j % 8) (Nat.mod_lt j (by decide)) (by omega)
  rwa [Nat.add_assoc, hj', hheld.eq_read hraced] at hbit

/-- Settles O25, by the checks in their order; past them each destination byte is its one value merged. -/
theorem readRule : Obligations.ReadRule := by
  refine ⟨(decodesExactlyTheEncodings _ _).2 rfl, fun s => ⟨exec_failsWith_state .read s,
    exec_failsWith_precond (.inr rfl), exec_failsWith_xfault (.inr rfl), fun hp hs hb hx hraced => ?_⟩⟩
  obtain ⟨t, hexec, hcompletes, hstorage, hdest, houtside⟩ := racedReadLeavesOneOfTwoValues s hs hp hb hx
  have hbit (j : Nat) (hk : j / 8 < (s.larg2.toNat + 7) / 8) : Memory.seqBit t.xmem s.larg1.toNat j =
      (Memory.seqBit s.xmem s.larg1.toNat j || (decide (j < s.larg2.toNat) && bufBit s.bmem (s.larg0.toNat + j))) := by
    rcases hdest _ hk with ⟨v, hheld, hmerged⟩ | ⟨⟨v, hmem⟩, -⟩
    · have h := hmerged (j % 8) (Nat.mod_lt j (by decide))
      rwa [Nat.add_assoc, Nat.div_add_mod, hheld.eq_read hraced] at h
    · rw [hraced] at hmem
      cases hmem
  refine ⟨t, hexec, hcompletes, hstorage, fun j hj => ?_, fun j hj => ?_, houtside⟩
  · rw [hbit j (by omega), decide_eq_true hj, Bool.true_and]
  · rcases Nat.lt_or_ge (j / 8) ((s.larg2.toNat + 7) / 8) with hin | hout
    · rw [hbit j hin, decide_eq_false (Nat.not_lt.2 hj), Bool.false_and, Bool.or_false]
    · rw [Memory.seqBit, houtside _ (by omega), Memory.seqBit]

/-- Settles O26, by the rules of the two commands, whose checks have passed. -/
theorem writeThenReadRoundTrip : Obligations.WriteThenReadRoundTrip := by
  intro s t u v hs hsraced hwrite ht hu huraced hindex hcount hkept hzero hread hv j hj
  obtain ⟨hsp, hsb, hsx⟩ := checked_of_exec_ok (.inl rfl) hwrite ht
  obtain ⟨hup, hub, hux⟩ := checked_of_exec_ok (.inr rfl) hread hv
  obtain ⟨-, hwriteRule⟩ := writeRule
  obtain ⟨-, hreadRule⟩ := readRule
  obtain ⟨-, -, -, hwrites⟩ := hwriteRule s
  obtain ⟨-, -, -, hreads⟩ := hreadRule u
  obtain ⟨t', ht', -, -, -, -, hwritten, -⟩ := hwrites hsp hs hsb hsx hsraced
  obtain ⟨v', hv', -, -, hmerged, -, -⟩ := hreads hup hu hub hux huraced
  cases hwrite.symm.trans ht'
  cases hread.symm.trans hv'
  calc Memory.seqBit v.xmem u.larg1.toNat j
      = (Memory.seqBit u.xmem u.larg1.toNat j || bufBit u.bmem (u.larg0.toNat + j)) := hmerged j (hcount ▸ hj)
    _ = bufBit t.bmem (s.larg0.toNat + j) := by
      rw [hzero j hj, Bool.false_or, hindex, hkept _ (by omega) (by omega)]
    _ = Memory.seqBit s.xmem s.larg1.toNat j := hwritten j hj

end Sys2Proof.Machine
end

section
/-! The errors (60_exceptions.md R202 to R207, R217): the one code that a command reports, by the first of its
conditions that fails, and the steps that run no command. -/

namespace Sys2Proof.Machine

/-! ## What a command reports -/

/-- Command `i` reports `e` from `s`: the code of the first condition that fails, in the order of 60_exceptions.md R207,
and `E_OK` where none fails. -/
inductive Reports (i : Instr) (s : State) : ErrCode → Prop where
  | state (hp : presenceFails i s) : Reports i s .state
  | precond (hp : ¬presenceFails i s) (hb : boundsFail i s) : Reports i s .precond
  | xfault (hp : ¬presenceFails i s) (hb : ¬boundsFail i s) (hx : xmemFails i s) : Reports i s .xfault
  | oom (hp : ¬presenceFails i s) (hb : ¬boundsFail i s) (hx : ¬xmemFails i s) (ha : allocFails i s) : Reports i s .oom
  | ok (hp : ¬presenceFails i s) (hb : ¬boundsFail i s) (hx : ¬xmemFails i s) (ha : ¬allocFails i s) : Reports i s .ok

section
variable {i : Instr} {s : State}

theorem present_of_not_presenceFails (hp : ¬presenceFails i s) : s.present = !createsBuffer i :=
  Bool.eq_not_of_ne hp

/-- The operand bounds come right after the presence check (60_exceptions.md R207). -/
theorem exec_of_boundsFail (hp : ¬presenceFails i s) (hb : boundsFail i s) : exec i s = .next (s.raise .precond) := by
  have hpresent := present_of_not_presenceFails hp
  cases i with
  | get => exact (execGet_of_present hpresent).trans (congrArg _ (if_pos hb))
  | set b => exact execSet_of_outOfSize hpresent hb b
  | clearRange => exact (execClearRange_of_present hpresent).trans (congrArg _ (if_pos hb))
  | clearN => exact (execClearN_of_present hpresent).trans (congrArg _ (if_pos hb))
  | write => exact execWrite_of_codecError (State.codecError_of_outOfBounds hpresent hb)
  | read => exact execRead_of_codecError (State.codecError_of_outOfBounds hpresent hb)
  | byteAddrOf => exact (execByteAddrOf_of_present hpresent).trans (congrArg _ (if_pos hb))
  | createEmpty | createSized | release | clearAll | resize | resizeZerofill | byteCount => exact hb.elim

/-- The codec's XMEM admission comes after its bounds (60_exceptions.md R207). -/
theorem exec_of_xmemFails (hp : ¬presenceFails i s) (hb : ¬boundsFail i s) (hx : xmemFails i s) :
    exec i s = .next (s.raise .xfault) := by
  have hpresent := present_of_not_presenceFails hp
  cases i with
  | write => exact execWrite_of_codecError (State.codecError_of_refused hpresent (Nat.not_lt.1 hb) hx)
  | read => exact execRead_of_codecError (State.codecError_of_refused hpresent (Nat.not_lt.1 hb) hx)
  | _ => exact hx.elim

/-- A refused request ends the command (60_exceptions.md R207); the allocating commands have no operand bounds. -/
theorem exec_of_allocFails (hp : ¬presenceFails i s) (ha : allocFails i s) :
    ∃ t, exec i s = .next t ∧ s.FailsWith t .oom := by
  have hpresent := present_of_not_presenceFails hp
  cases i with
  | createSized z => exact exec_failsWith_oom (.inr (.inr ⟨z, rfl⟩)) hpresent ha
  | resize => exact exec_failsWith_oom (.inl rfl) hpresent ha
  | resizeZerofill => exact exec_failsWith_oom (.inr (.inl rfl)) hpresent ha
  | _ => exact ha.elim

/-- An allocating command whose request is granted completes (20_memory.md R56). -/
theorem exec_of_granted (hi : i = .resize ∨ i = .resizeZerofill ∨ ∃ z, i = .createSized z)
    (hp : s.present = !createsBuffer i) (hgrant : ¬s.allocGrants (ceil8 s.larg0.toNat) = false) :
    ∃ t, exec i s = .next t ∧ t.err = .ok := by
  obtain ⟨u, r0, r1, hexec, -⟩ := exec_of_request hi hp
  exact ⟨_, hexec.trans (congrArg _ (if_pos (Bool.eq_true_of_not_eq_false hgrant))), rfl⟩

/-- The codec completes inside its bounds when every address of its range is admitted (43_bulk_codec.md R160, R162). -/
theorem exec_of_admitted (hi : i = .write ∨ i = .read) (hp : s.present = true)
    (hb : ¬s.capacity.toNat < s.larg0.toNat + s.larg2.toNat)
    (hx : ¬∃ k < ceil8 s.larg2.toNat, addressRefused s (s.larg1.toNat + k)) :
    ∃ t, exec i s = .next t ∧ t.err = .ok :=
  exec_of_checked hi
    (State.codecError_of_admitted hp (Nat.not_lt.1 hb) fun k hk hrefused => hx ⟨k, hk, hrefused⟩)

/-- A command none of whose conditions fails completes (60_exceptions.md R201). -/
theorem exec_of_checksPass (hp : ¬presenceFails i s) (hb : ¬boundsFail i s) (hx : ¬xmemFails i s)
    (ha : ¬allocFails i s) : ∃ t, exec i s = .next t ∧ t.err = .ok := by
  have hpresent := present_of_not_presenceFails hp
  cases i with
  | createEmpty => exact ⟨_, execCreateEmpty_of_absent hpresent, rfl⟩
  | createSized z => exact exec_of_granted (.inr (.inr ⟨z, rfl⟩)) hpresent ha
  | release => exact ⟨_, execRelease_of_present hpresent, rfl⟩
  | get => exact ⟨_, (execGet_of_present hpresent).trans (congrArg _ (if_neg hb)), rfl⟩
  | set b => exact ⟨_, execSet_of_inSize hpresent (Nat.not_le.1 hb) b, rfl⟩
  | clearRange => exact ⟨_, (execClearRange_of_present hpresent).trans (congrArg _ (if_neg hb)), rfl⟩
  | clearN => exact ⟨_, (execClearN_of_present hpresent).trans (congrArg _ (if_neg hb)), rfl⟩
  | clearAll => exact ⟨_, execClearAll_of_present hpresent, rfl⟩
  | resize => exact exec_of_granted (.inl rfl) hpresent ha
  | resizeZerofill => exact exec_of_granted (.inr (.inl rfl)) hpresent ha
  | write => exact exec_of_admitted (.inl rfl) hpresent hb hx
  | read => exact exec_of_admitted (.inr rfl) hpresent hb hx
  | byteCount => exact ⟨_, execByteCount_of_present hpresent, rfl⟩
  | byteAddrOf => exact ⟨_, (execByteAddrOf_of_present hpresent).trans (congrArg _ (if_neg hb)), rfl⟩

/-- Every command answers a next state with the code of the first condition that fails (60_exceptions.md R207). -/
theorem exec_reports (i : Instr) (s : State) : ∃ t, exec i s = .next t ∧ Reports i s t.err := by
  by_cases hp : presenceFails i s
  · exact ⟨_, exec_of_presenceFails hp, .state hp⟩
  by_cases hb : boundsFail i s
  · exact ⟨_, exec_of_boundsFail hp hb, .precond hp hb⟩
  by_cases hx : xmemFails i s
  · exact ⟨_, exec_of_xmemFails hp hb hx, .xfault hp hb hx⟩
  by_cases ha : allocFails i s
  · obtain ⟨t, hexec, hfails⟩ := exec_of_allocFails hp ha
    exact ⟨t, hexec, hfails.err ▸ .oom hp hb hx ha⟩
  · obtain ⟨t, hexec, hok⟩ := exec_of_checksPass hp hb hx ha
    exact ⟨t, hexec, hok ▸ .ok hp hb hx ha⟩

/-- A command reports one code: the conditions of two different codes contradict each other. -/
theorem Reports.unique {e e' : ErrCode} (h : Reports i s e) (h' : Reports i s e') : e = e' := by
  cases h <;> cases h' <;> trivial

/-- `E_STATE` has no other cause than the presence requirement (60_exceptions.md R203). -/
theorem Reports.eq_state_iff {e : ErrCode} (h : Reports i s e) : e = .state ↔ presenceFails i s := by
  cases h with
  | state hp => simp [hp]
  | precond hp | xfault hp | oom hp | ok hp => simp [hp]

/-- No condition of a command looks at `FAULTS` (60_exceptions.md R206). -/
theorem Reports.of_overrun {e : ErrCode} (h : Reports i s.overrun e) : Reports i s e := by
  cases h with
  | state hp => exact .state hp
  | precond hp hb => exact .precond hp hb
  | xfault hp hb hx => exact .xfault hp hb hx
  | oom hp hb hx ha => exact .oom hp hb hx ha
  | ok hp hb hx ha => exact .ok hp hb hx ha

/-- Only the codec accesses XMEM, and it makes no request (60_exceptions.md R207). -/
theorem not_xmemFails_and_allocFails (i : Instr) (s : State) : ¬(xmemFails i s ∧ allocFails i s) := by
  rintro ⟨hx, ha⟩
  cases i with
  | write | read => exact ha
  | _ => exact hx

end

/-- A pending illegal word ends in the controller's turn (60_exceptions.md R204). -/
theorem step_of_reject {s : State} {r : DecodeReject} (hnext : s.ControllerNext) (hbusy : s.busy = true)
    (hd : decode s.lcmd = .error r) : step s = .next (s.popTurn.raise .illegal) :=
  (step_of_controllerNext hnext).trans (controllerTurn_of_reject hbusy hd)

theorem controllerTurn_next (s : State) : ∃ t, controllerTurn s = .next t := by
  rcases controllerTurn_cases s with ⟨_, hidle⟩ | ⟨_, _, hillegal⟩ | ⟨_, i, _, hexec⟩
  · exact ⟨_, hidle⟩
  · exact ⟨_, hillegal⟩
  · obtain ⟨t, ht, -⟩ := exec_commandEnds i s
    exact ⟨t, hexec.trans ht⟩

/-! ## The rules -/

/-- Settles O8. -/
theorem idleControllerKeepsItsState : Obligations.IdleControllerKeepsItsState := fun _ hnext hidle =>
  (step_of_controllerNext hnext).trans (controllerTurn_of_idle hidle)

/-- Settles O9, by the agent whose turn it is. -/
theorem everyStepHasANextState : Obligations.EveryStepHasANextState := by
  intro s
  rcases step_cases s with ⟨_, hctl⟩ | ⟨_, _, _, hhost⟩ | ⟨_, _, hreset⟩
  · obtain ⟨t, ht⟩ := controllerTurn_next s.popTurn
    exact ⟨t, hctl.trans ht⟩
  · exact ⟨_, hhost⟩
  · exact ⟨_, hreset⟩

/-- Settles O47: the write reaches `CMD`, which drops it while a command is pending and accepts it otherwise. -/
theorem overrunIsDropped : Obligations.OverrunIsDropped := by
  refine ⟨fun s v rest hbusy hturns => ?_, fun s t v rest hidle hturns h => ?_⟩
  · have hover : s.popTurn.writeReg .cmd v = s.popTurn.overrun := if_pos hbusy
    rw [step_of_regWrite .cmd hturns, hover, State.popTurn_of_turns hturns]
    rfl
  · cases (step_of_acceptedCommand hidle hturns).symm.trans h
    rfl

/-- Settles O7: the words listed are those the decoder rejects. -/
theorem illegalWordCompletesWithIllegal : Obligations.IllegalWordCompletesWithIllegal := by
  intro s hnext hbusy hword
  obtain ⟨-, -, hrejects⟩ := matchMaskTableDecides s.lcmd
  obtain ⟨r, hd⟩ := hrejects.2 hword
  exact ⟨_, step_of_reject hnext hbusy hd, s.popTurn.raise_failsWith .illegal, rfl⟩

/-- Settles O32, by the two ways in which a command ends. -/
theorem errorsArePrecise : Obligations.ErrorsArePrecise := by
  intro i s
  obtain ⟨t, hexec, hends⟩ := exec_commandEnds i s
  refine ⟨t, hexec, hends.busy, ?_⟩
  cases hends with
  | completes r0 r1 h => exact ⟨fun _ => h.faults, fun herr => absurd h.err herr⟩
  | fails e hne h => exact ⟨fun hok => absurd (h.err.symm.trans hok) hne, fun _ => h.err.symm ▸ h⟩

/-- Settles O33. -/
theorem stateErrorCauses : Obligations.StateErrorCauses := by
  intro i s
  obtain ⟨t, hexec, hreports⟩ := exec_reports i s
  exact ⟨t, hexec, hreports.eq_state_iff⟩

/-- Settles O34: each clause names the one code that the command then reports, also with the overrun. -/
theorem errorPriority : Obligations.ErrorPriority := by
  refine ⟨fun s hnext hbusy ⟨r, hd⟩ => ⟨_, step_of_reject hnext hbusy hd, rfl⟩,
    fun i s => ⟨not_xmemFails_and_allocFails i s, ?_⟩⟩
  obtain ⟨t, hexec, hreports⟩ := exec_reports i s
  obtain ⟨u, hoverrun, hsame⟩ := exec_reports i s.overrun
  exact ⟨t, hexec, fun hp => hreports.unique (.state hp), fun hp hb => hreports.unique (.precond hp hb),
    fun hp hb hx => hreports.unique (.xfault hp hb hx), fun hp hb hx ha => hreports.unique (.oom hp hb hx ha),
    fun hp hb hx ha => hreports.unique (.ok hp hb hx ha), u, hoverrun, hsame.of_overrun.unique hreports⟩

end Sys2Proof.Machine
end

section
/-! A reset while a `read` is pending (70_reset_and_hazards.md R230): what the cut-off command has left in XMEM. -/

namespace Sys2Proof.Machine

theorem State.resetXmem_of_readPending {s : State} (h : s.readPending = true) :
    s.resetXmem = Memory.storeFrom (fun k => !Config.resetWrote (s.draws + k)) s.larg1.toNat 0 s.readBytes s.xmem := by
  rw [State.resetXmem, if_pos h]

/-- Destination byte `k` after a reset: old or merged, as the draw of log 9 says, with the value that the cut-off command
has sampled; old also where no `read` is pending that passes its checks. -/
theorem State.read_resetXmem (s : State) (hm : Memory.wf s.xmem) {k : Nat} (hk : k < ceil8 s.larg2.toNat) :
    Memory.read s.resetXmem (s.larg1.toNat + k) = Memory.read s.xmem (s.larg1.toNat + k) ∨
      ∃ v, s.HeldValue (s.larg1.toNat + k) v ∧
        s.MergedByte k v (Memory.read s.resetXmem (s.larg1.toNat + k)) := by
  cases hr : s.readPending with
  | false => exact .inl (by rw [State.resetXmem_of_not_readPending hr])
  | true =>
    have hok := (s.readPending_iff.1 hr).2
    rw [State.resetXmem_of_readPending hr, State.read_storeReadBytes hok hm, if_pos (by omega),
      Nat.add_sub_cancel_left]
    cases hwrote : Config.resetWrote (s.draws + k) with
    | false => exact .inl (if_pos rfl)
    | true => exact .inr ⟨_, s.sampleXmem_held (s.draws + k) _, s.orMerged_mergedByte k _⟩

/-- A reset reaches no byte outside the destination of a `read` (70_reset_and_hazards.md R230). -/
theorem State.read_resetXmem_outside (s : State) (hm : Memory.wf s.xmem) {a : Nat}
    (ha : ¬(s.larg1.toNat ≤ a ∧ a < s.larg1.toNat + ceil8 s.larg2.toNat)) :
    Memory.read s.resetXmem a = Memory.read s.xmem a := by
  cases hr : s.readPending with
  | false => rw [State.resetXmem_of_not_readPending hr]
  | true =>
    have hok := (s.readPending_iff.1 hr).2
    rw [State.resetXmem_of_readPending hr, State.read_storeReadBytes hok hm, if_neg ha]

/-- Settles O57, from what a reset leaves in every XMEM byte; a `read` that fails one of its checks has stored nothing. -/
theorem resetDuringReadLeavesOldOrMerged : Obligations.ResetDuringReadLeavesOldOrMerged := by
  refine ⟨fun s rest hs _ hturns => ?_, fun s rest _ hturns hfails => ?_⟩
  · have hm := hs.popTurn.xmemCanonical
    exact ⟨_, step_of_reset hturns, fun k hk => s.popTurn.read_resetXmem hm hk,
      fun a ha => s.popTurn.read_resetXmem_outside hm ha⟩
  · exact ⟨_, step_of_reset hturns,
      State.resetXmem_of_not_readPending (s := s.popTurn) (State.readPending_eq_false_of_fails hfails)⟩

end Sys2Proof.Machine
end
